-- ==== Sys2Proof/Word.lean ====
section
/-! DEFINITION. The word types of the vibe RV32 core (00_scope.md R7, 10_state.md R20, 20_memory.md R100,
21_mmu_tlb.md R162). A bit slice v[hi:lo] of the spec is written v.extractLsb' lo (hi - lo + 1), and a
concatenation a : b is a ++ b. -/

namespace Sys2Proof

/-- A register, a virtual address, a CSR (R7, R20, R32). -/
abbrev Word := BitVec 32

/-- A halfword: the unit in which instructions are fetched (R190). -/
abbrev Half := BitVec 16

/-- A byte (R100: "A byte is 8 bits"). -/
abbrev Byte := BitVec 8

/-- PA_BITS, the width of a physical address on the bus: the spec's default, 34 (00_scope.md R5, R162, D24; log entry
17). -/
abbrev Config.paBits : Nat := 34

/-- A physical byte address (R100, R162). -/
abbrev PAddr := BitVec Config.paBits

/-- The number of a general register, 5 bits (R20, R192). -/
abbrev Reg := BitVec 5

/-- A 3-bit register field of a compressed instruction, naming x8 to x15 (R431). -/
abbrev CReg := BitVec 3

/-- A 12-bit CSR number (R33). -/
abbrev CsrNum := BitVec 12

end Sys2Proof
end

