-- ==== Sys2Proof/Config.lean ====
section
/-! DEFINITION. The implementation parameters of 00_scope.md R5, at the spec's defaults. The one parameter with no
default, BOOT_CFG_PTR, is an opaque constant: nothing can be proved of its value; and so is what a device behind the bus
answers. PA_BITS stands in Word.lean and the CSR map in Machine/Csr.lean. -/

namespace Sys2Proof

/-! ### The bus collaborator: the types of its parameter (20_memory.md R101, R105) -/

/-- The status of a bus access (R101). -/
inductive BusStatus where
  | ok
  | unmapped
  | invalid
  | align
deriving DecidableEq, Repr, Inhabited

/-- What the collaborator answers to one call; the data counts for a read only, "valid when status = OK" (R101). -/
structure BusAnswer where
  status : BusStatus
  data   : Word
deriving DecidableEq, Repr, Inhabited

/-- One call of the port without its address and width: `BusRead`, or `BusWrite` of a value (R101). -/
inductive BusOp where
  | read
  | write (v : Word)
deriving DecidableEq, Repr

/-- What answers the calls of a region of physical addresses. -/
inductive RegionKind where
  /-- memory; the flag says whether it serves an access that is not naturally aligned (R106: "the collaborator
  decides") or answers `ALIGN` to it -/
  | ram (servesMisaligned : Bool)
  /-- a device or any other collaborator: each call is answered by the oracle (R105) -/
  | oracle
deriving DecidableEq, Repr

/-- A region "address-range-dispatched" inside the collaborator (R100). -/
structure Region where
  base : Nat
  size : Nat
  kind : RegionKind
deriving DecidableEq, Repr

/-- The collaborator: its regions, the first that holds an address dispatching it. One region of oracle kind over all
addresses is the oracle of R105 that answers each call. -/
abbrev BusMap := List Region

namespace Config

/-- RESET_VECTOR (R5, R540). The number is the spec's default, D3 (log entry 2). -/
def resetVector : Word := 0x80000000#32

/-- RESET_GPR, the reset value of x1 to x31 (R5, R70). DESIGN CHOICE 0, the spec's default D5 (log entry 1). -/
def resetGpr : Word := 0#32

/-- BOOT_HARTID, written to x10 by the host's PreSeed (R543). The spec's default, D6. -/
def bootHartId : Word := 0#32

/-- BOOT_CFG_PTR, written to x11 by the host's PreSeed: "a physical address chosen by the host, open parameter"
(R543). A free value (log entry 13). -/
opaque bootCfgPtr : Word

/-- MISA_VALUE, the reset and read value of `misa` (R5, R43). -/
def misaValue : Word := 0x40141105#32

/-- First address of the reference RAM (R105, D34). -/
def ramBase : Nat := 0x80000000

/-- First address after the reference RAM (R105, D34). -/
def ramEnd : Nat := 0x88000000

/-- Bus (R5): the spec's default, the reference RAM of R105 and D34 (log entry 12). The machine holds its bus in
`State.bus`, so that a claim about every state is a claim about every bus. -/
def bus : BusMap := [{ base := ramBase, size := ramEnd - ramBase, kind := .ram false }]

/-- What an oracle region answers to its n-th call: the call, its physical address and its width in bytes. A free value:
the spec takes the collaborator as "an oracle answering each call" (R105; log entry 20). -/
opaque busOracle : Nat → BusOp → PAddr → Nat → BusAnswer

/-- ITLB_SETS (R5, D4; log entry 5). -/
abbrev itlbSets : Nat := 16

/-- ITLB_WAYS (R5, D4; log entry 5). -/
abbrev itlbWays : Nat := 2

/-- DTLB_SETS (R5, D4; log entry 5). -/
abbrev dtlbSets : Nat := 16

/-- DTLB_WAYS (R5, D4; log entry 5). -/
abbrev dtlbWays : Nat := 4

/-- STLB_ENTRIES (R5, D4; log entry 5). -/
abbrev stlbEntries : Nat := 4

/-- IRQ_SW_BIT: the `mip` bit of the software line (R5, R512, D12; log entry 11). -/
def irqSwBit : Nat := 3

/-- IRQ_TIMER_BIT: the `mip` bit of the timer line (R5, R512, D12; log entry 11). -/
def irqTimerBit : Nat := 7

/-- IRQ_EXT_BIT: the `mip` bit of the external line (R5, R512, D12; log entry 11). -/
def irqExtBit : Nat := 11

/-- The two behaviours R158 allows for a level-1 leaf whose PPN[9:0] is not 0. -/
inductive MisalignedSuperpage where
  /-- the page fault of the access, "as malformed" -/
  | pageFault
  /-- no meaning: the model refuses the access -/
  | refuse
deriving DecidableEq, Repr

/-- MISALIGNED_SUPERPAGE (R5, R158, D25): the spec's default, `fault` (log entry 10). -/
def misalignedSuperpage : MisalignedSuperpage := .pageFault

end Config

end Sys2Proof
end

