-- ==== Sys2Proof/Machine/State.lean ====
section
/-! DEFINITION. The state of the core (10_state.md R20 to R62) and its reset value (R70), as plain data. The mode and the
page level are names; a CSR is a word, because software reads and writes it whole. -/

namespace Sys2Proof.Machine

/-- `priv`, "one of {User, Supervisor, Machine}" (R26). -/
inductive Priv where
  | U
  | S
  | M
deriving DecidableEq, Repr

/-- The level of a TLB entry: base page (4 KiB) or superpage (4 MiB) (R29, R141). -/
inductive PageLevel where
  | basePage
  | superPage
deriving DecidableEq, Repr

/-- One entry of a TLB table (R29). `lru` is the rank, "a small unsigned number". -/
structure TlbEntry where
  vpn    : BitVec 20
  ppn    : BitVec 22
  pte    : Word
  valid  : Bool
  global : Bool
  level  : PageLevel
  asid   : BitVec 9
  lru    : Nat
deriving DecidableEq, Repr

/-- The storage words of the CSR file (R32); `cycleLo` and `cycleHi` are the halves of the cycle counter (R27). Views and
constants (R40) have no storage. -/
structure Csrs where
  mstatus    : Word
  misa       : Word
  medeleg    : Word
  mideleg    : Word
  mie        : Word
  mip        : Word
  mtvec      : Word
  mscratch   : Word
  mepc       : Word
  mcause     : Word
  mtval      : Word
  mcounteren : Word
  stvec      : Word
  sscratch   : Word
  sepc       : Word
  scause     : Word
  stval      : Word
  scounteren : Word
  satp       : Word
  cycleLo    : Word
  cycleHi    : Word
deriving DecidableEq, Repr

/-- The result of a step (40_step.md R240): no trap, a trap with the value written to the cause register, or WFI's idle
code. -/
inductive StepResult where
  | noTrap
  | trap (code : Word)
  | idle
deriving DecidableEq, Repr

/-- A set-associative TLB table (R29). -/
abbrev SetTlb (sets ways : Nat) := Vector (Vector TlbEntry ways) sets

/-- The memory behind the bus: address and byte pairs in the canonical form of `Memory.wf` (Machine/Memory.lean). -/
abbrev Memory := List Host.Cell

/-- The state of the machine. -/
structure State where
  /-- x1 to x31, x1 first (R20); x0 has no storage -/
  x         : Vector Word 31
  /-- R23 -/
  pc        : Word
  /-- R24: set before execute, copied to `pc` at commit -/
  nextPc    : Word
  /-- R26 -/
  priv      : Priv
  /-- R32 -/
  csr       : Csrs
  /-- the reservation set (R28): "one optional (address, valid) pair" -/
  resv      : Option Word
  /-- the instruction TLB (R29) -/
  itlb      : SetTlb Config.itlbSets Config.itlbWays
  /-- the data TLB (R29) -/
  dtlb      : SetTlb Config.dtlbSets Config.dtlbWays
  /-- the superpage TLB (R29) -/
  stlb      : Vector TlbEntry Config.stlbEntries
  /-- R30 -/
  asidCache : BitVec 9
  /-- what the bus reaches (R62); outside the core -/
  mem       : Memory
  /-- the bus collaborator (20_memory.md R105), a parameter; no step changes it (log entry 12) -/
  bus       : BusMap
  /-- how many calls the oracle regions of the bus have answered: the model's own counter (log entry 20) -/
  busCalls  : Nat
  /-- the output of the last step (R240; log entry 7) -/
  result    : StepResult
  /-- `raw` of R230 and R234: the undecoded bits of the instruction in execution (log entry 8) -/
  rawInst   : Word
deriving DecidableEq, Repr

/-- A reason to stop the machine. It has no constructor: no state of this core is stuck, and every error is a trap the
machine takes (60_exceptions.md R480, R506; 93_implementation_defined.md section 1). -/
inductive Fault
deriving DecidableEq, Repr

/-- A reason to give a step no meaning. -/
inductive Refusal where
  /-- an instruction whose meaning is not written; raised by no meaning and by no arm of this model. Safe. -/
  | notModelled (mnemonic : String)
  /-- a word load or store at page offset 0xFFD or 0xFFF, whose split has a 3-byte part; raised by `memRead` and
  `memWrite`. R108: "A model should refuse (give no meaning to) a word load or store whose address has `a[11:0]` in
  {0xFFD, 0xFFF}". Safe. -/
  | threeBytePart
  /-- a level-1 leaf with PPN[9:0] not 0 when MISALIGNED_SUPERPAGE is `refuse` (R158); raised by `walk`; the default of
  Config never reaches it. Safe. -/
  | misalignedSuperpage
deriving DecidableEq, Repr

/-- A TLB entry at reset: `valid` = 0 (R70); the other fields are unspecified and never read, DESIGN CHOICE 0 (log
entry 4). -/
def TlbEntry.reset : TlbEntry :=
  { vpn := 0#20, ppn := 0#22, pte := 0#32, valid := false, global := false, level := .basePage, asid := 0#9, lru := 0 }

/-- "CSRs zeroed except the ISA-capability register" (R70). -/
def Csrs.reset : Csrs :=
  { mstatus := 0#32, misa := Config.misaValue, medeleg := 0#32, mideleg := 0#32, mie := 0#32, mip := 0#32,
    mtvec := 0#32, mscratch := 0#32, mepc := 0#32, mcause := 0#32, mtval := 0#32, mcounteren := 0#32, stvec := 0#32,
    sscratch := 0#32, sepc := 0#32, scause := 0#32, stval := 0#32, scounteren := 0#32, satp := 0#32, cycleLo := 0#32,
    cycleHi := 0#32 }

/-- The machine right after `Reset` (R70, R540), before the host's PreSeed (R543). -/
def State.reset : State :=
  { x := Vector.replicate 31 Config.resetGpr, pc := Config.resetVector, nextPc := Config.resetVector, priv := .M,
    csr := Csrs.reset, resv := none,
    itlb := Vector.replicate Config.itlbSets (Vector.replicate Config.itlbWays TlbEntry.reset),
    dtlb := Vector.replicate Config.dtlbSets (Vector.replicate Config.dtlbWays TlbEntry.reset),
    stlb := Vector.replicate Config.stlbEntries TlbEntry.reset,
    asidCache := 0#9, mem := [], bus := Config.bus, busCalls := 0, result := .noTrap, rawInst := 0#32 }

end Sys2Proof.Machine
end

