-- ==== Sys2Proof/Machine/Memory.lean ====
section
/-! DEFINITION. The bytes behind the bus, and little-endian values built from them (20_memory.md R104). A memory is a list
of (address, byte) pairs, addresses strictly rising, no pair holding the byte an unlisted address reads as. -/

namespace Sys2Proof.Machine

/-- What an address reads as that nothing has written. DESIGN CHOICE 0: the vectors of 95_test_vectors.md take RAM as
"zero-filled unless stated" (log entry 6). -/
def unlistedByte : Byte := 0#8

/-- The byte at an address. -/
def Memory.read : Memory → Nat → Byte
  | [], _ => unlistedByte
  | (k, v) :: m, a => if a = k then v else Memory.read m a

/-- Write one byte, keeping the canonical form: writing what an unlisted address reads as removes the pair. -/
def Memory.write : Memory → Nat → Byte → Memory
  | [], a, b => if b = unlistedByte then [] else [(a, b)]
  | (k, v) :: m, a, b =>
    if a < k then (if b = unlistedByte then (k, v) :: m else (a, b) :: (k, v) :: m)
    else if a = k then (if b = unlistedByte then m else (a, b) :: m)
    else (k, v) :: Memory.write m a b

/-- The canonical form. -/
def Memory.wf : Memory → Bool
  | [] => true
  | (k, v) :: m => v != unlistedByte && m.all (fun c => decide (k < c.1)) && Memory.wf m

/-- The little-endian value of `n` bytes from an address, zero-extended to a word: "the byte at the lowest address is
bits 7:0" (R104). -/
def Memory.readLE (m : Memory) (a : Nat) : Nat → Word
  | 0 => 0#32
  | n + 1 => (m.read a).setWidth 32 ||| (Memory.readLE m (a + 1) n <<< 8)

/-- Store the low `n` bytes of a word, little-endian, from an address (R104). -/
def Memory.writeLE (m : Memory) (a : Nat) : Nat → Word → Memory
  | 0, _ => m
  | n + 1, v => Memory.writeLE (m.write a (v.setWidth 8)) (a + 1) n (v >>> 8)

end Sys2Proof.Machine
end

