-- ==== Sys2Proof/Machine/Bus.lean ====
section
/-! DEFINITION. The bus port (20_memory.md R101 to R105): what the collaborator in `State.bus` answers to a call, and what
the call leaves. The core trusts what it answers. -/

namespace Sys2Proof.Machine

/-- The core's three classes of status (R102). -/
inductive BusClass where
  | ordinaryOk
  | genericBad
  | misalignment
deriving DecidableEq, Repr

/-- "Any non-OK status is mapped by the core into one of {ordinary-ok, generic-bad, misalignment}" (R102). -/
def busClass : BusStatus → BusClass
  | .ok => .ordinaryOk
  | .unmapped => .genericBad
  | .invalid => .genericBad
  | .align => .misalignment

/-- The low n bytes of a word: a value of the port is 8n bits wide (R101). -/
def lowBytes (n : Nat) (v : Word) : Word := v &&& BitVec.ofNat 32 (2 ^ (8 * n) - 1)

/-- The region that dispatches an address: the first that holds it (R100). -/
def regionAt (m : BusMap) (a : Nat) : Option Region := m.find? fun r => r.base ≤ a && a < r.base + r.size

/-- What answers an access of n bytes at a: the region that dispatches it, where the whole access lies in it. -/
def servedBy (m : BusMap) (a n : Nat) : Option RegionKind :=
  match regionAt m a with
  | some r => if a + n ≤ r.base + r.size then some r.kind else none
  | none => none

/-- What memory answers: "`ALIGN` when `pa mod n != 0`", unless it serves misaligned accesses, "`INVALID` for n = 8, and
otherwise `OK`" (R105). -/
def ramStatus (servesMisaligned : Bool) (a n : Nat) : BusStatus :=
  if !servesMisaligned && a % n != 0 then .align
  else if n = 1 ∨ n = 2 ∨ n = 4 then .ok
  else .invalid

/-- The answer to one call: memory; an oracle, which sees the 8n bits of a write; and "`UNMAPPED` outside", after `ALIGN`
(R101, R105; log entry 9). Read data is zero-extended to a word. -/
def busAnswer (s : State) (op : BusOp) (pa : PAddr) (n : Nat) : BusAnswer :=
  match servedBy s.bus pa.toNat n with
  | some (.ram lax) => { status := ramStatus lax pa.toNat n, data := s.mem.readLE pa.toNat n }
  | some .oracle =>
    let op := match op with
      | .read => BusOp.read
      | .write v => .write (lowBytes n v)
    let r := Config.busOracle s.busCalls op pa n
    { status := r.status, data := lowBytes n r.data }
  | none => { status := if pa.toNat % n != 0 then .align else .unmapped, data := 0#32 }

/-- The store of an accepted write to memory (R101, R104). -/
def busPut (s : State) (pa : PAddr) (n : Nat) (v : Word) : State :=
  { s with mem := s.mem.writeLE pa.toNat n v }

/-- The state after one call: an accepted write to memory stores, a call of an oracle is counted. -/
def busAfter (s : State) (op : BusOp) (pa : PAddr) (n : Nat) : State :=
  match servedBy s.bus pa.toNat n with
  | some (.ram lax) =>
    match op with
    | .read => s
    | .write v => if ramStatus lax pa.toNat n = .ok then busPut s pa n v else s
  | some .oracle => { s with busCalls := s.busCalls + 1 }
  | none => s

end Sys2Proof.Machine
end

