-- ==== Sys2Proof/Machine/Flags.lean ====
section
/-! DEFINITION. This core has no flags register (41_loads_stores.md: "No instruction of this core writes any flag").
What stands here in its place: the comparisons (42_branches_jumps.md R283 to R286, R290), the fields of `mstatus`
(10_state.md R41) and the privilege encoding (R26). -/

namespace Sys2Proof.Machine

/-- s(a) < s(b) (R283, R302, R314). -/
def lessSigned (a b : Word) : Bool := decide (a.toInt < b.toInt)

/-- u(a) < u(b) (R285, R303, R315). -/
def lessUnsigned (a b : Word) : Bool := decide (a.toNat < b.toNat)

/-- A comparison as a register value: 1 or 0 (R302, R314). -/
def boolWord (b : Bool) : Word := if b then 1#32 else 0#32

/-! The construction of R290, "built from subtraction, sign, and overflow composition". The meanings use the comparisons
above; that the two agree is a statement. -/

/-- The signed overflow of a - b (R290). -/
def subOverflow (a b : Word) : Bool := (a.msb != b.msb) && ((a - b).msb != a.msb)

/-- Signed less-than from sign and overflow (R290). -/
def lessSignedBySub (a b : Word) : Bool := xor (a - b).msb (subOverflow a b)

/-- Unsigned less-than: the borrow of a - b (R290). -/
def lessUnsignedByBorrow (a b : Word) : Bool := (!a.msb && b.msb) || (!(xor a.msb b.msb) && (a - b).msb)

/-! ### Privilege -/

/-- U = 0, S = 1, M = 3 (R26). -/
def Priv.bits : Priv → BitVec 2
  | .U => 0#2
  | .S => 1#2
  | .M => 3#2

/-- The privilege a 2-bit field names. The value 2 never occurs in `mstatus.MPP` (R61) and is "treated as needing M" in
a CSR number (R33): it reads as M (log entry 16). -/
def Priv.ofBits (b : BitVec 2) : Priv := if b = 0#2 then .U else if b = 1#2 then .S else .M

/-- "monotonic ordering User < Supervisor < Machine" (R26). -/
def Priv.below (p q : Priv) : Bool := decide (p.bits.toNat < q.bits.toNat)

/-! ### Fields of a status word -/

/-- Replace one bit of a word. -/
def putBit (w : Word) (k : Nat) (b : Bool) : Word :=
  if b then w ||| (1#32 <<< k) else w &&& ~~~(1#32 <<< k)

/-- `mstatus.SIE`, bit 1 (R41). -/
def statusSIE (w : Word) : Bool := w.getLsbD 1
/-- `mstatus.MIE`, bit 3 (R41). -/
def statusMIE (w : Word) : Bool := w.getLsbD 3
/-- `mstatus.SPIE`, bit 5 (R41). -/
def statusSPIE (w : Word) : Bool := w.getLsbD 5
/-- `mstatus.MPIE`, bit 7 (R41). -/
def statusMPIE (w : Word) : Bool := w.getLsbD 7
/-- `mstatus.SPP`, bit 8: 0 = U, 1 = S (R41). -/
def statusSPP (w : Word) : Bool := w.getLsbD 8
/-- `mstatus.MPP`, bits 12:11 (R41). -/
def statusMPP (w : Word) : BitVec 2 := w.extractLsb' 11 2
/-- `mstatus.MPRV`, bit 17 (R41). -/
def statusMPRV (w : Word) : Bool := w.getLsbD 17
/-- `mstatus.SUM`, bit 18 (R41). -/
def statusSUM (w : Word) : Bool := w.getLsbD 18
/-- `mstatus.MXR`, bit 19 (R41). -/
def statusMXR (w : Word) : Bool := w.getLsbD 19
/-- `mstatus.TVM`, bit 20 (R41). -/
def statusTVM (w : Word) : Bool := w.getLsbD 20

/-- Write `mstatus.SIE`. -/
def putSIE (w : Word) (b : Bool) : Word := putBit w 1 b
/-- Write `mstatus.MIE`. -/
def putMIE (w : Word) (b : Bool) : Word := putBit w 3 b
/-- Write `mstatus.SPIE`. -/
def putSPIE (w : Word) (b : Bool) : Word := putBit w 5 b
/-- Write `mstatus.MPIE`. -/
def putMPIE (w : Word) (b : Bool) : Word := putBit w 7 b
/-- Write `mstatus.SPP`. -/
def putSPP (w : Word) (b : Bool) : Word := putBit w 8 b
/-- Write `mstatus.MPRV`. -/
def putMPRV (w : Word) (b : Bool) : Word := putBit w 17 b
/-- Write `mstatus.MPP`, bits 12:11. -/
def putMPP (w : Word) (p : BitVec 2) : Word := putBit (putBit w 11 (p.getLsbD 0)) 12 (p.getLsbD 1)

end Sys2Proof.Machine
end

