-- ==== Sys2Proof/Machine/Res.lean ====
section
/-! DEFINITION. Synchronous exceptions (60_exceptions.md R480) and the result of an operation that may raise one.
`raise E(tval)` abandons the instruction; "state written before it stays written" (00_scope.md R8, R500), so a raise
carries the state reached. -/

namespace Sys2Proof.Machine

/-- The kind of an access: read, write, execute (21_mmu_tlb.md R146). -/
inductive Access where
  | R
  | W
  | X
deriving DecidableEq, Repr

/-- A synchronous exception (R480). -/
inductive Exc where
  | instrMisaligned
  | instrAccess
  | illegal
  | breakpoint
  | loadMisaligned
  | loadAccess
  | storeMisaligned
  | storeAccess
  | ecallU
  | ecallS
  | ecallM
  | instrPage
  | loadPage
  | storePage
deriving DecidableEq, Repr

/-- The cause number of an exception (R480). -/
def Exc.code : Exc → Nat
  | .instrMisaligned => 0
  | .instrAccess => 1
  | .illegal => 2
  | .breakpoint => 3
  | .loadMisaligned => 4
  | .loadAccess => 5
  | .storeMisaligned => 6
  | .storeAccess => 7
  | .ecallU => 8
  | .ecallS => 9
  | .ecallM => 11
  | .instrPage => 12
  | .loadPage => 13
  | .storePage => 15

/-- The address-misaligned exception of an access kind (R103). -/
def misalignedExc : Access → Exc
  | .X => .instrMisaligned
  | .R => .loadMisaligned
  | .W => .storeMisaligned

/-- The access-fault exception of an access kind (R103, R156). -/
def accessExc : Access → Exc
  | .X => .instrAccess
  | .R => .loadAccess
  | .W => .storeAccess

/-- The page-fault exception of an access kind (R171). -/
def pageExc : Access → Exc
  | .X => .instrPage
  | .R => .loadPage
  | .W => .storePage

/-- What an operation inside an instruction answers. -/
inductive Res (α : Type) where
  /-- it completed with a value -/
  | ok (a : α) (s : State)
  /-- it raised an exception with a trap value -/
  | raise (e : Exc) (tval : Word) (s : State)
  /-- the spec gives the access no meaning -/
  | refuse (r : Refusal)

/-- Run one operation after another; a raise or a refusal ends the sequence (R500). -/
def Res.bind {α β : Type} (m : Res α) (f : α → State → Res β) : Res β :=
  match m with
  | .ok a s => f a s
  | .raise e tval s => .raise e tval s
  | .refuse r => .refuse r

end Sys2Proof.Machine
end

