-- ==== Sys2Proof/Machine/Mmu.lean ====
section
/-! DEFINITION. Sv32 translation and the three TLB tables (21_mmu_tlb.md R140 to R183). -/

namespace Sys2Proof.Machine

/-! ### Fields of `satp`, of an address and of a page-table entry -/

/-- `satp.MODE`: 1 = Sv32 (R140). -/
def satpMode (w : Word) : Bool := w.getLsbD 31
/-- `satp.ASID` (R140). -/
def satpAsid (w : Word) : BitVec 9 := w.extractLsb' 22 9
/-- `satp.PPN` (R140). -/
def satpPpn (w : Word) : BitVec 22 := w.extractLsb' 0 22

/-- `VPN1 = va[31:22]` (R141). -/
def vpn1 (va : Word) : BitVec 10 := va.extractLsb' 22 10
/-- `VPN0 = va[21:12]` (R141). -/
def vpn0 (va : Word) : BitVec 10 := va.extractLsb' 12 10
/-- `VPN = va[31:12]` (R141). -/
def vpn (va : Word) : BitVec 20 := va.extractLsb' 12 20
/-- `va[11:0]` (R141). -/
def pageOffset (va : Word) : BitVec 12 := va.extractLsb' 0 12

/-- PTE bit V (R142). -/
def pteV (p : Word) : Bool := p.getLsbD 0
/-- PTE bit R (R142). -/
def pteR (p : Word) : Bool := p.getLsbD 1
/-- PTE bit W (R142). -/
def pteW (p : Word) : Bool := p.getLsbD 2
/-- PTE bit X (R142). -/
def pteX (p : Word) : Bool := p.getLsbD 3
/-- PTE bit U (R142). -/
def pteU (p : Word) : Bool := p.getLsbD 4
/-- PTE bit G (R142). -/
def pteG (p : Word) : Bool := p.getLsbD 5
/-- PTE bit A (R142). -/
def pteA (p : Word) : Bool := p.getLsbD 6
/-- PTE bit D (R142). -/
def pteD (p : Word) : Bool := p.getLsbD 7
/-- `PPN = pte[31:10]` (R142). -/
def ptePpn (p : Word) : BitVec 22 := p.extractLsb' 10 22
/-- `PPN0 = pte[19:10]` (R142). -/
def ptePpn0 (p : Word) : BitVec 10 := p.extractLsb' 10 10

/-! ### One set of ways -/

/-- The lowest-indexed way that satisfies p: "linear scan of ways" (R150, R151). -/
def firstWay {n : Nat} (ways : Vector TlbEntry n) (p : TlbEntry → Bool) : Option (Fin n) :=
  (List.finRange n).find? fun i => p ways[i]

/-- Way k becomes the highest rank, every other positive rank loses one (R152); MAXRANK is n - 1. -/
def promote {n : Nat} (ways : Vector TlbEntry n) (k : Fin n) : Vector TlbEntry n :=
  Vector.ofFn fun i =>
    if i = k then { ways[i] with lru := n - 1 } else { ways[i] with lru := ways[i].lru - 1 }

/-- The way with the smallest rank, "the lowest-indexed among equals" (R166). -/
def lowestRank {n : Nat} [NeZero n] (ways : Vector TlbEntry n) : Fin n :=
  (List.finRange n).foldl (fun best i => if ways[i].lru < ways[best].lru then i else best) 0

/-- "the lowest-indexed entry with `valid = 0` if there is one; otherwise the entry with the smallest `lru`" (R166). -/
def victim {n : Nat} [NeZero n] (ways : Vector TlbEntry n) : Fin n :=
  match firstWay ways (fun e => !e.valid) with
  | some k => k
  | none => lowestRank ways

/-- Overwrite the victim and promote it (R166, R167, R168). -/
def fill {n : Nat} [NeZero n] (ways : Vector TlbEntry n) (e : TlbEntry) : Vector TlbEntry n :=
  let k := victim ways
  promote (ways.set k e) k

/-- Clear `valid` in the entries p picks; ranks stay (R176, R177, R178). -/
def dropWays {n : Nat} (p : TlbEntry → Bool) (ways : Vector TlbEntry n) : Vector TlbEntry n :=
  ways.map fun e => if p e then { e with valid := false } else e

/-! ### The tables -/

/-- "set selected by low-order VA page bits": va[31:12] mod T_SETS (R151, R165). -/
def setIndex (sets : Nat) [NeZero sets] (va : Word) : Fin sets := Fin.ofNat sets (vpn va).toNat

/-- Does a superpage entry serve va? "by page-aligned VA plus (global OR matching address-space id)" (R150). -/
def superMatch (asidCache : BitVec 9) (va : Word) (e : TlbEntry) : Bool :=
  e.valid && (e.vpn.extractLsb' 10 10 == vpn1 va) && (e.global || e.asid == asidCache)

/-- Does a base-page entry serve va? (R151; the source compares no ASID). -/
def baseMatch (va : Word) (e : TlbEntry) : Bool := e.valid && (e.vpn == vpn va)

/-- The set of `table(kind)` that va selects: the ITLB for X, the DTLB for R and W (R146), found and rewritten. -/
def lookupSet {sets ways : Nat} [NeZero sets] (t : SetTlb sets ways) (va : Word) : Option (Fin ways) :=
  firstWay t[setIndex sets va] (baseMatch va)

/-- Replace the set that va selects. -/
def updateSet {sets ways : Nat} [NeZero sets] (t : SetTlb sets ways) (va : Word)
    (f : Vector TlbEntry ways → Vector TlbEntry ways) : SetTlb sets ways :=
  t.set (setIndex sets va) (f t[setIndex sets va])

/-- A hit in a set-associative table: the entry, and the table with the hit promoted (R151, R152). -/
def hitSet {sets ways : Nat} [NeZero sets] (t : SetTlb sets ways) (va : Word) :
    Option (TlbEntry × SetTlb sets ways) :=
  match lookupSet t va with
  | some k => some (t[setIndex sets va][k], updateSet t va (fun w => promote w k))
  | none => none

/-- A hit in the superpage table: the entry, and the state with the hit promoted (R150, R152). -/
def hitSuper (va : Word) (s : State) : Option (TlbEntry × State) :=
  match firstWay s.stlb (superMatch s.asidCache va) with
  | some k => some (s.stlb[k], { s with stlb := promote s.stlb k })
  | none => none

/-- A hit in the table of the access kind (R146, R151, R152). -/
def hitBase (va : Word) (kind : Access) (s : State) : Option (TlbEntry × State) :=
  match kind with
  | .X => (hitSet s.itlb va).map fun (e, t) => (e, { s with itlb := t })
  | .R => (hitSet s.dtlb va).map fun (e, t) => (e, { s with dtlb := t })
  | .W => (hitSet s.dtlb va).map fun (e, t) => (e, { s with dtlb := t })

/-- The entry a completed walk yields (R167): for a superpage the low ten bits of `vpn` are 0. -/
def newEntry (va pte : Word) (level : PageLevel) (asid : BitVec 9) : TlbEntry :=
  { vpn := match level with
      | .basePage => vpn va
      | .superPage => vpn1 va ++ 0#10
    ppn := ptePpn pte, pte := pte, valid := true, global := pteG pte, level := level, asid := asid, lru := 0 }

/-- "Insert the result into the superpage TLB if it is a properly aligned superpage leaf, else into the matching
set-associative table" (R165 to R168). -/
def insertEntry (va pte : Word) (level : PageLevel) (kind : Access) (s : State) : State :=
  let e := newEntry va pte level s.asidCache
  match level with
  | .superPage => { s with stlb := fill s.stlb e }
  | .basePage =>
    match kind with
    | .X => { s with itlb := updateSet s.itlb va (fun w => fill w e) }
    | .R => { s with dtlb := updateSet s.dtlb va (fun w => fill w e) }
    | .W => { s with dtlb := updateSet s.dtlb va (fun w => fill w e) }

/-- Clear `valid` in the entries p picks, in all three tables (R176, R177). -/
def dropEntries (p : TlbEntry → Bool) (s : State) : State :=
  { s with itlb := s.itlb.map (dropWays p), dtlb := s.dtlb.map (dropWays p), stlb := dropWays p s.stlb }

/-- `TlbFlushAll()` (R176): "invalidates every entry regardless of global status". -/
def tlbFlushAll (s : State) : State := dropEntries (fun _ => true) s

/-- `TlbFlushNonGlobal()` (R177). -/
def tlbFlushNonGlobal (s : State) : State := dropEntries (fun e => !e.global) s

/-! ### The walk -/

/-- "failing with a page fault on an invalid or malformed entry" (R155): V = 0, or R = 0 and W = 1. -/
def pteInvalid (p : Word) : Bool := !pteV p || (!pteR p && pteW p)

/-- The physical address of entry `index` of the table at page `ppn`: ppn * 4096 + index * 4 (R155). -/
def pteAddr (ppn : BitVec 22) (index : BitVec 10) : PAddr := ppn ++ index ++ 0#2

/-- `ReadPte` (R156): a failed bus read is the access fault of the access being translated. -/
def readPte (pa : PAddr) (kind : Access) (va : Word) (s : State) : Res Word :=
  let r := busAnswer s .read pa 4
  let t := busAfter s .read pa 4
  match r.status with
  | .ok => .ok r.data t
  | _ => .raise (accessExc kind) va t

/-- `MisalignedSuperpage(kind, va)` (R158), as the parameter says. -/
def misalignedLeaf (kind : Access) (va : Word) (s : State) : Res (Word × PageLevel) :=
  match Config.misalignedSuperpage with
  | .pageFault => .raise (pageExc kind) va s
  | .refuse => .refuse .misalignedSuperpage

/-- The level-0 half of the walk: "leaf or not: the walk stops at level 0" (R155). -/
def walkLevel0 (ppn : BitVec 22) (va : Word) (kind : Access) (s : State) : Res (Word × PageLevel) :=
  (readPte (pteAddr ppn (vpn0 va)) kind va s).bind fun pte s =>
    if pteInvalid pte then .raise (pageExc kind) va s else .ok (pte, .basePage) s

/-- `Walk(va, kind)` (R155). It writes no memory (R157). -/
def walk (va : Word) (kind : Access) (s : State) : Res (Word × PageLevel) :=
  (readPte (pteAddr (satpPpn s.csr.satp) (vpn1 va)) kind va s).bind fun pte s =>
    if pteInvalid pte then .raise (pageExc kind) va s
    else if pteR pte || pteX pte then
      if ptePpn0 pte = 0#10 then .ok (pte, .superPage) s else misalignedLeaf kind va s
    else walkLevel0 (ptePpn pte) va kind s

/-! ### Translation -/

/-- `EffectivePriv(kind)` (R147): MPRV at every current privilege, never for a fetch. -/
def effectivePriv (kind : Access) (s : State) : Priv :=
  if kind ≠ .X ∧ statusMPRV s.csr.mstatus = true then Priv.ofBits (statusMPP s.csr.mstatus) else s.priv

/-- Is the requested access class permitted by the leaf, with "an allow-read-on-executable override" (R170)? -/
def accessAllowed (pte : Word) (kind : Access) (mxr : Bool) : Bool :=
  match kind with
  | .R => pteR pte || (mxr && pteX pte)
  | .W => pteW pte
  | .X => pteX pte

/-- `PermCheck` (R170): does the check fail? -/
def permFails (pte : Word) (kind : Access) (eff : Priv) (mstatus : Word) : Bool :=
  (eff == .U && !pteU pte)
    || (eff == .S && pteU pte && !statusSUM mstatus)
    || !accessAllowed pte kind (statusMXR mstatus)
    || !pteA pte
    || (kind == .W && !pteD pte)

/-- `PhysAddr(e, va)` (R160, R162). -/
def physAddr (e : TlbEntry) (va : Word) : PAddr :=
  match e.level with
  | .basePage => e.ppn ++ pageOffset va
  | .superPage => e.ppn.extractLsb' 10 12 ++ va.extractLsb' 0 22

/-- The tail of `Translate`, "applied uniformly on hit and after walk" (R146, R170). -/
def checkedAddr (e : TlbEntry) (va : Word) (kind : Access) (eff : Priv) (s : State) : Res PAddr :=
  if permFails e.pte kind eff s.csr.mstatus then .raise (pageExc kind) va s else .ok (physAddr e va) s

/-- "If translation is disabled at the root, or the effective privilege exceeds supervisor" (R148). -/
def bypasses (kind : Access) (s : State) : Bool := !satpMode s.csr.satp || effectivePriv kind s == .M

/-- `Translate(va, kind)` (R146): bypass, superpage TLB, the table of the kind, walk; insertion before the permission
check. -/
def translate (va : Word) (kind : Access) (s : State) : Res PAddr :=
  if bypasses kind s then .ok (va.setWidth Config.paBits) s
  else
    let eff := effectivePriv kind s
    match hitSuper va s with
    | some (e, s) => checkedAddr e va kind eff s
    | none =>
      match hitBase va kind s with
      | some (e, s) => checkedAddr e va kind eff s
      | none =>
        (walk va kind s).bind fun (pte, level) s =>
          checkedAddr (newEntry va pte level s.asidCache) va kind eff (insertEntry va pte level kind s)

end Sys2Proof.Machine
end

