-- ==== Sys2Proof/Machine/Operands.lean ====
section
/-! DEFINITION. The operand forms: general registers (10_state.md R20, R21), immediates (30_encoding.md R193,
48_compressed.md R430 to R459) and the one addressing mode, base plus displacement (41_loads_stores.md R260). -/

namespace Sys2Proof.Machine

/-- The place of register r, r not 0, among x1 to x31. -/
def regIndex (r : Reg) (_h : ¬ r = 0#5) : Fin 31 := ⟨r.toNat - 1, by bv_omega⟩

/-- `x[r]`: "Reading x[0] returns 0" (R20). -/
def State.reg (s : State) (r : Reg) : Word := if h : r = 0#5 then 0#32 else s.x[regIndex r h]

/-- `x[r] <- v`: "x[0] <- v has no effect" (R21). -/
def State.setReg (s : State) (r : Reg) (v : Word) : State :=
  if h : r = 0#5 then s else { s with x := s.x.set (regIndex r h) v }

/-- `sext_n` of R193: an immediate field, or the byte offset of a branch or jump, as a word. -/
def sext {n : Nat} (imm : BitVec n) : Word := imm.signExtend 32

/-- `zext_n` of R7: an immediate without a sign, as a word. -/
def zext {n : Nat} (imm : BitVec n) : Word := imm.setWidth 32

/-- `imm_U`: a 20-bit immediate "shifted into the upper bits" (R193). -/
def upper (imm : BitVec 20) : Word := imm ++ 0#12

/-- The register a 3-bit field names: x[8 + r'] (R431). -/
def cReg (r : CReg) : Reg := 8#5 + r.setWidth 5

/-- `ea = x[rs1] + imm` modulo 2^32 (R260). -/
def State.ea (s : State) (rs1 : Reg) (disp : Word) : Word := s.reg rs1 + disp

/-- `next_pc <- v` (R238). -/
def State.setNextPc (s : State) (v : Word) : State := { s with nextPc := v }

end Sys2Proof.Machine
end

