-- ==== Sys2Proof/Syntax.lean ====
section
/-! DEFINITION. The instructions: one constructor for each row of spec/opcode_table.json, in the table's order
(30_encoding.md R201, 48_compressed.md R432 to R459). An immediate stands in its decoded place: a branch offset is the
13-bit byte offset of R193 with bit 0 included, `nzuimm` of C.ADDI4SPN the 10-bit byte count of R432, and so on. Every bit
of an encoding that is not fixed is an operand, also those the core ignores (the fields of FENCE, aq and rl). -/

namespace Sys2Proof

/-- The instruction set of the core. -/
inductive Instr where
  /-- LUI (R420) -/
  | lui (rd : Reg) (imm : BitVec 20)
  /-- AUIPC (R421) -/
  | auipc (rd : Reg) (imm : BitVec 20)
  /-- JAL (R287) -/
  | jal (rd : Reg) (off : BitVec 21)
  /-- JALR (R288) -/
  | jalr (rd rs1 : Reg) (imm : BitVec 12)
  /-- BEQ (R281) -/
  | beq (rs1 rs2 : Reg) (off : BitVec 13)
  /-- BNE (R282) -/
  | bne (rs1 rs2 : Reg) (off : BitVec 13)
  /-- BLT (R283) -/
  | blt (rs1 rs2 : Reg) (off : BitVec 13)
  /-- BGE (R284) -/
  | bge (rs1 rs2 : Reg) (off : BitVec 13)
  /-- BLTU (R285) -/
  | bltu (rs1 rs2 : Reg) (off : BitVec 13)
  /-- BGEU (R286) -/
  | bgeu (rs1 rs2 : Reg) (off : BitVec 13)
  /-- LB (R261) -/
  | lb (rd rs1 : Reg) (imm : BitVec 12)
  /-- LH (R262) -/
  | lh (rd rs1 : Reg) (imm : BitVec 12)
  /-- LW (R263) -/
  | lw (rd rs1 : Reg) (imm : BitVec 12)
  /-- LBU (R264) -/
  | lbu (rd rs1 : Reg) (imm : BitVec 12)
  /-- LHU (R265) -/
  | lhu (rd rs1 : Reg) (imm : BitVec 12)
  /-- SB (R266) -/
  | sb (rs2 rs1 : Reg) (imm : BitVec 12)
  /-- SH (R267) -/
  | sh (rs2 rs1 : Reg) (imm : BitVec 12)
  /-- SW (R268) -/
  | sw (rs2 rs1 : Reg) (imm : BitVec 12)
  /-- ADDI (R301) -/
  | addi (rd rs1 : Reg) (imm : BitVec 12)
  /-- SLTI (R302) -/
  | slti (rd rs1 : Reg) (imm : BitVec 12)
  /-- SLTIU (R303) -/
  | sltiu (rd rs1 : Reg) (imm : BitVec 12)
  /-- XORI (R304) -/
  | xori (rd rs1 : Reg) (imm : BitVec 12)
  /-- ORI (R305) -/
  | ori (rd rs1 : Reg) (imm : BitVec 12)
  /-- ANDI (R306) -/
  | andi (rd rs1 : Reg) (imm : BitVec 12)
  /-- SLLI (R307) -/
  | slli (rd rs1 : Reg) (shamt : BitVec 5)
  /-- SRLI (R308) -/
  | srli (rd rs1 : Reg) (shamt : BitVec 5)
  /-- SRAI (R309) -/
  | srai (rd rs1 : Reg) (shamt : BitVec 5)
  /-- ADD (R311) -/
  | add (rd rs1 rs2 : Reg)
  /-- SUB (R312) -/
  | sub (rd rs1 rs2 : Reg)
  /-- SLL (R313) -/
  | sll (rd rs1 rs2 : Reg)
  /-- SLT (R314) -/
  | slt (rd rs1 rs2 : Reg)
  /-- SLTU (R315) -/
  | sltu (rd rs1 rs2 : Reg)
  /-- XOR (R316) -/
  | xor (rd rs1 rs2 : Reg)
  /-- SRL (R317) -/
  | srl (rd rs1 rs2 : Reg)
  /-- SRA (R318) -/
  | sra (rd rs1 rs2 : Reg)
  /-- OR (R319) -/
  | or (rd rs1 rs2 : Reg)
  /-- AND (R320) -/
  | and (rd rs1 rs2 : Reg)
  /-- MUL (R331) -/
  | mul (rd rs1 rs2 : Reg)
  /-- MULH (R332) -/
  | mulh (rd rs1 rs2 : Reg)
  /-- MULHSU (R333) -/
  | mulhsu (rd rs1 rs2 : Reg)
  /-- MULHU (R334) -/
  | mulhu (rd rs1 rs2 : Reg)
  /-- DIV (R335) -/
  | div (rd rs1 rs2 : Reg)
  /-- DIVU (R336) -/
  | divu (rd rs1 rs2 : Reg)
  /-- REM (R337) -/
  | rem (rd rs1 rs2 : Reg)
  /-- REMU (R338) -/
  | remu (rd rs1 rs2 : Reg)
  /-- FENCE (R396) -/
  | fence (fm pred succ : BitVec 4) (rs1 rd : Reg)
  /-- FENCE.I (R397) -/
  | fenceI (imm : BitVec 12) (rs1 rd : Reg)
  /-- ECALL (R390) -/
  | ecall
  /-- EBREAK (R391) -/
  | ebreak
  /-- SRET (R389) -/
  | sret
  /-- MRET (R388) -/
  | mret
  /-- WFI (R392) -/
  | wfi
  /-- SFENCE.VMA (R394) -/
  | sfenceVma (rs1 rs2 : Reg)
  /-- CSRRW (R382) -/
  | csrrw (rd : Reg) (csr : CsrNum) (rs1 : Reg)
  /-- CSRRS (R383) -/
  | csrrs (rd : Reg) (csr : CsrNum) (rs1 : Reg)
  /-- CSRRC (R384) -/
  | csrrc (rd : Reg) (csr : CsrNum) (rs1 : Reg)
  /-- CSRRWI (R385) -/
  | csrrwi (rd : Reg) (csr : CsrNum) (uimm : BitVec 5)
  /-- CSRRSI (R386) -/
  | csrrsi (rd : Reg) (csr : CsrNum) (uimm : BitVec 5)
  /-- CSRRCI (R387) -/
  | csrrci (rd : Reg) (csr : CsrNum) (uimm : BitVec 5)
  /-- LR.W (R352) -/
  | lrW (aq rl : Bool) (rd rs1 : Reg)
  /-- SC.W (R353) -/
  | scW (aq rl : Bool) (rd rs2 rs1 : Reg)
  /-- AMOSWAP.W (R354) -/
  | amoSwapW (aq rl : Bool) (rd rs2 rs1 : Reg)
  /-- AMOADD.W (R355) -/
  | amoAddW (aq rl : Bool) (rd rs2 rs1 : Reg)
  /-- AMOXOR.W (R356) -/
  | amoXorW (aq rl : Bool) (rd rs2 rs1 : Reg)
  /-- AMOAND.W (R357) -/
  | amoAndW (aq rl : Bool) (rd rs2 rs1 : Reg)
  /-- AMOOR.W (R358) -/
  | amoOrW (aq rl : Bool) (rd rs2 rs1 : Reg)
  /-- AMOMIN.W (R359) -/
  | amoMinW (aq rl : Bool) (rd rs2 rs1 : Reg)
  /-- AMOMAX.W (R360) -/
  | amoMaxW (aq rl : Bool) (rd rs2 rs1 : Reg)
  /-- AMOMINU.W (R361) -/
  | amoMinuW (aq rl : Bool) (rd rs2 rs1 : Reg)
  /-- AMOMAXU.W (R362) -/
  | amoMaxuW (aq rl : Bool) (rd rs2 rs1 : Reg)
  /-- C.ADDI4SPN (R432) -/
  | cAddi4spn (rd : CReg) (nzuimm : BitVec 10)
  /-- C.LW (R433) -/
  | cLw (rd rs1 : CReg) (uimm : BitVec 7)
  /-- C.SW (R434) -/
  | cSw (rs2 rs1 : CReg) (uimm : BitVec 7)
  /-- C.NOP (R435) -/
  | cNop (imm : BitVec 6)
  /-- C.ADDI (R436) -/
  | cAddi (rd : Reg) (imm : BitVec 6)
  /-- C.JAL (R437) -/
  | cJal (off : BitVec 12)
  /-- C.LI (R438) -/
  | cLi (rd : Reg) (imm : BitVec 6)
  /-- C.ADDI16SP (R439) -/
  | cAddi16sp (nzimm : BitVec 10)
  /-- C.LUI (R441) -/
  | cLui (rd : Reg) (nzimm : BitVec 6)
  /-- C.SRLI (R442) -/
  | cSrli (rd : CReg) (shamt : BitVec 5)
  /-- C.SRAI (R443) -/
  | cSrai (rd : CReg) (shamt : BitVec 5)
  /-- C.ANDI (R444) -/
  | cAndi (rd : CReg) (imm : BitVec 6)
  /-- C.SUB (R445) -/
  | cSub (rd rs2 : CReg)
  /-- C.XOR (R446) -/
  | cXor (rd rs2 : CReg)
  /-- C.OR (R447) -/
  | cOr (rd rs2 : CReg)
  /-- C.AND (R448) -/
  | cAnd (rd rs2 : CReg)
  /-- C.J (R449) -/
  | cJ (off : BitVec 12)
  /-- C.BEQZ (R450) -/
  | cBeqz (rs1 : CReg) (off : BitVec 9)
  /-- C.BNEZ (R451) -/
  | cBnez (rs1 : CReg) (off : BitVec 9)
  /-- C.SLLI (R452) -/
  | cSlli (rd : Reg) (shamt : BitVec 5)
  /-- C.LWSP (R453) -/
  | cLwsp (rd : Reg) (uimm : BitVec 8)
  /-- C.JR (R454) -/
  | cJr (rs1 : Reg)
  /-- C.MV (R455) -/
  | cMv (rd rs2 : Reg)
  /-- C.EBREAK (R456) -/
  | cEbreak
  /-- C.JALR (R457) -/
  | cJalr (rs1 : Reg)
  /-- C.ADD (R458) -/
  | cAdd (rd rs2 : Reg)
  /-- C.SWSP (R459) -/
  | cSwsp (rs2 : Reg) (uimm : BitVec 8)
deriving DecidableEq, Repr

/-- The instruction is 16 bits long (R190, R205); every other one is 32 bits long. -/
def Instr.compressed : Instr → Bool
  | .cAddi4spn _ _ | .cLw _ _ _ | .cSw _ _ _ | .cNop _ | .cAddi _ _ | .cJal _ | .cLi _ _ => true
  | .cAddi16sp _ | .cLui _ _ | .cSrli _ _ | .cSrai _ _ | .cAndi _ _ | .cSub _ _ | .cXor _ _ => true
  | .cOr _ _ | .cAnd _ _ | .cJ _ | .cBeqz _ _ | .cBnez _ _ | .cSlli _ _ | .cLwsp _ _ => true
  | .cJr _ | .cMv _ _ | .cEbreak | .cJalr _ | .cAdd _ _ | .cSwsp _ _ => true
  | _ => false

/-- Its length in bytes (R190). -/
def Instr.len (i : Instr) : Word := if i.compressed then 2#32 else 4#32

end Sys2Proof
end

