-- ==== Sys2Proof/Machine/Ops.lean ====
section
/-! DEFINITION. The shared operations: taking a trap and returning from one (60_exceptions.md R500 to R507, R514;
46_system_csr.md R388, R389), the end of an instruction (40_step.md R237), memory access (20_memory.md R106 to R111) and
the host's moves (60_exceptions.md R512, 70_reset_and_hazards.md R540 to R543, R556). -/

namespace Sys2Proof.Machine

/-! ### Taking a trap -/

/-- `DestPriv` (R502). -/
def destPriv (isInt : Bool) (cause : Nat) (s : State) : Priv :=
  let deleg := if isInt then s.csr.mideleg else s.csr.medeleg
  if s.priv.below .M && deleg.getLsbD cause then .S else .M

/-- The value of a cause register: "(interrupt flag in the top bit | cause number)" (R503). -/
def causeWord (isInt : Bool) (cause : Nat) : Word :=
  (if isInt then 0x80000000#32 else 0#32) ||| BitVec.ofNat 32 cause

/-- `TrapVector` (R504). -/
def trapVector (tvec : Word) (isInt : Bool) (cause : Nat) : Word :=
  let base := tvec &&& 0xFFFFFFFC#32
  if tvec.getLsbD 0 && isInt then base + BitVec.ofNat 32 (4 * cause) else base

/-- `TrapEntry` (R503): the one operation that takes an exception or an interrupt. It also latches the step's result
(R240). -/
def trapEntry (isInt : Bool) (cause : Nat) (tval epc : Word) (s : State) : State :=
  let c := s.csr
  match destPriv isInt cause s with
  | .S =>
    { s with
      csr := { c with
        mstatus := putSIE (putSPP (putSPIE c.mstatus (statusSIE c.mstatus)) (s.priv == .S)) false
        sepc := epc, scause := causeWord isInt cause, stval := tval }
      priv := .S
      pc := trapVector c.stvec isInt cause
      result := .trap (causeWord isInt cause) }
  | _ =>
    { s with
      csr := { c with
        mstatus := putMIE (putMPP (putMPIE c.mstatus (statusMIE c.mstatus)) s.priv.bits) false
        mepc := epc, mcause := causeWord isInt cause, mtval := tval }
      priv := .M
      pc := trapVector c.mtvec isInt cause
      result := .trap (causeWord isInt cause) }

/-- Take a synchronous exception: `TrapEntry(0, cause(E), tval, pc)` (R230, R500). -/
def takeException (e : Exc) (tval : Word) (s : State) : State := trapEntry false e.code tval s.pc s

/-- The outcome of an instruction whose operations may raise: a raise takes the exception (R500). -/
def finish (r : Res Unit) : Host.Outcome State Fault Refusal :=
  match r with
  | .ok _ s => .next s
  | .raise e tval s => .next (takeException e tval s)
  | .refuse r => .refused r

/-- `raise IllegalInstruction(raw)` as the outcome of an instruction (R234). -/
def illegalInstruction (s : State) : Host.Outcome State Fault Refusal :=
  .next (takeException .illegal s.rawInst s)

/-! ### Interrupts and the end of an instruction -/

/-- Is interrupt cause i eligible and takeable now (R514)? -/
def takeable (s : State) (i : Nat) : Bool :=
  (s.csr.mip &&& s.csr.mie).getLsbD i &&
    (let d := destPriv true i s
     let ie := match d with
       | .M => statusMIE s.csr.mstatus
       | _ => statusSIE s.csr.mstatus
     s.priv.below d || (d == s.priv && ie))

/-- The causes in the order of the scan, "from highest to lowest" (R514, R515). -/
def causeOrder : List Nat := [11, 10, 9, 8, 7, 6, 5, 4, 3, 2, 1, 0]

/-- The cause the check takes, if any: the scan goes on past an eligible cause that cannot be taken (R514, D13). -/
def pendingInterrupt (s : State) : Option Nat := causeOrder.find? (takeable s)

/-- Take interrupt i: the saved pc is the committed one, the trap value 0 (R481, R514). -/
def takeInterrupt (i : Nat) (s : State) : State := trapEntry true i 0#32 s.pc s

/-- `CheckInterrupts` (R514): at most one trap. -/
def checkInterrupts (s : State) : State :=
  match pendingInterrupt s with
  | some i => takeInterrupt i s
  | none => s

/-- The cycle counter plus 1, "with carry from the low half into the high half" (R27). -/
def Csrs.tick (c : Csrs) : Csrs :=
  { c with cycleLo := c.cycleLo + 1#32,
           cycleHi := c.cycleHi + (if c.cycleLo = 0xFFFFFFFF#32 then 1#32 else 0#32) }

/-- "commit `next_pc -> pc`, increment a 64-bit (32+32 with carry) cycle counter" (R237). -/
def commitPc (s : State) : State := { s with pc := s.nextPc, csr := s.csr.tick }

/-- The generic commit (R237): the three actions in that order. -/
def commit (s : State) : State := checkInterrupts (commitPc s)

/-- `WfiTail` (R392): commit, the one interrupt check, and the result. -/
def wfiTail (s : State) : State :=
  let s := commitPc s
  match pendingInterrupt s with
  | some i => takeInterrupt i s
  | none => { s with result := if s.csr.mip &&& s.csr.mie = 0#32 then .idle else .noTrap }

/-- Did an exception end the instruction? -/
def StepResult.isTrap : StepResult → Bool
  | .trap _ => true
  | _ => false

/-- What follows `Execute` in a step (R230): nothing after an exception, nothing more after WFI, whose meaning ends in its
own tail, the generic commit after every other instruction. -/
def retire (i : Instr) (s : State) : State :=
  if s.result.isTrap || i == .wfi then s else commit s

/-! ### Returning from a trap -/

/-- The effect of MRET (R388). -/
def returnFromM (s : State) : State :=
  let m := s.csr.mstatus
  let p := Priv.ofBits (statusMPP m)
  let m1 := putMPP (putMPIE (putMIE m (statusMPIE m)) true) 0#2
  let m2 := if p = .U then putMPRV m1 false else m1
  { s with csr := { s.csr with mstatus := m2 }, priv := p, nextPc := s.csr.mepc }

/-- The effect of SRET (R389). -/
def returnFromS (s : State) : State :=
  let m := s.csr.mstatus
  let p := if statusSPP m then Priv.S else Priv.U
  let m1 := putSPP (putSPIE (putSIE m (statusSPIE m)) true) false
  let m2 := if p = .U then putMPRV m1 false else m1
  { s with csr := { s.csr with mstatus := m2 }, priv := p, nextPc := s.csr.sepc }

/-! ### Memory access -/

/-- The widths the core issues: byte, half, word (R101, R112). -/
inductive Width where
  | byte
  | half
  | word
deriving DecidableEq, Repr

/-- The width in bytes. -/
def Width.bytes : Width → Nat
  | .byte => 1
  | .half => 2
  | .word => 4

/-- How an access is issued (R107, R108). -/
inductive Parts where
  /-- inside one page: one bus call -/
  | whole
  /-- across a page boundary: two bus calls of this width -/
  | split (w : Width)
  /-- a 3-byte part: no meaning -/
  | threeByte
deriving DecidableEq, Repr

/-- "An access of n bytes at virtual address a crosses when `a[11:0] + n > 4096`" (R107); a word can be split 2 + 2 only
(R108). -/
def partsOf (a : Word) (w : Width) : Parts :=
  if (pageOffset a).toNat + w.bytes ≤ 4096 then .whole
  else match w with
    | .byte => .whole
    | .half => .split .byte
    | .word => if pageOffset a = 0xFFE#12 then .split .half else .threeByte

/-- One bus read at a translated address; a status that is not OK is folded into the exception of the kind, with the
virtual address of the part as trap value (R103, R110). -/
def busRead (kind : Access) (va : Word) (pa : PAddr) (w : Width) (s : State) : Res Word :=
  let r := busAnswer s .read pa w.bytes
  let t := busAfter s .read pa w.bytes
  match busClass r.status with
  | .ordinaryOk => .ok r.data t
  | .genericBad => .raise (accessExc kind) va t
  | .misalignment => .raise (misalignedExc kind) va t

/-- One bus write at a translated address (R103, R111). -/
def busWrite (va : Word) (pa : PAddr) (w : Width) (v : Word) (s : State) : Res Unit :=
  let t := busAfter s (.write v) pa w.bytes
  match busClass (busAnswer s (.write v) pa w.bytes).status with
  | .ordinaryOk => .ok () t
  | .genericBad => .raise (accessExc .W) va t
  | .misalignment => .raise (misalignedExc .W) va t

/-- Translate and read one part (R110). -/
def readPart (a : Word) (w : Width) (kind : Access) (s : State) : Res Word :=
  (translate a kind s).bind fun pa s => busRead kind a pa w s

/-- Translate and write one part (R111). -/
def writePart (a : Word) (w : Width) (v : Word) (s : State) : Res Unit :=
  (translate a .W s).bind fun pa s => busWrite a pa w v s

/-- The address of the high part of a split access whose parts have width w: `a + n1` modulo 2^32 (R107). -/
def highPart (a : Word) (w : Width) : Word := a + BitVec.ofNat 32 w.bytes

/-- `d2 : d1`, "d1 is the low-order bytes" (R110). -/
def joinParts (w : Width) (d1 d2 : Word) : Word := d1 ||| (d2 <<< (8 * w.bytes))

/-- `MemRead(a, n, kind)` (R110): the value of the w bytes, zero-extended to a word. -/
def memRead (a : Word) (w : Width) (kind : Access) (s : State) : Res Word :=
  match partsOf a w with
  | .whole => readPart a w kind s
  | .split p =>
    (readPart a p kind s).bind fun d1 s =>
      (readPart (highPart a p) p kind s).bind fun d2 s => .ok (joinParts p d1 d2) s
  | .threeByte => .refuse .threeBytePart

/-- `MemWrite(a, n, v)` (R111): the low w bytes of v. When the high part of a split store raises, the low part stays
written (R109). -/
def memWrite (a : Word) (w : Width) (v : Word) (s : State) : Res Unit :=
  match partsOf a w with
  | .whole => writePart a w v s
  | .split p =>
    (writePart a p v s).bind fun _ s => writePart (highPart a p) p (v >>> (8 * p.bytes)) s
  | .threeByte => .refuse .threeBytePart

/-! ### The host's moves, between steps -/

/-- `Reset` of a running machine: the core's state is created anew (10_state.md R70, R540), "memory and devices are outside
the core and are not touched by it" (R541). -/
def State.resetCore (s : State) : State :=
  { State.reset with mem := s.mem, bus := s.bus, busCalls := s.busCalls }

/-- `InjectInterrupts(sw, timer, ext)` (R512): "overwrites exactly those three bits of the pending-interrupt register". -/
def State.injectInterrupts (s : State) (sw timer ext : Bool) : State :=
  { s with csr := { s.csr with
      mip := putBit (putBit (putBit s.csr.mip Config.irqSwBit sw) Config.irqTimerBit timer) Config.irqExtBit ext } }

/-- `PreSeed()` (R543): x10 and x11, before the first step. -/
def State.preSeed (s : State) : State := (s.setReg 10#5 Config.bootHartId).setReg 11#5 Config.bootCfgPtr

/-- "The host may change memory and device state between steps" (R556): one byte. -/
def State.hostWrite (s : State) (a : Nat) (b : Byte) : State := { s with mem := s.mem.write a b }

end Sys2Proof.Machine
end

