-- ==== Sys2Proof/Machine/Alu.lean ====
section
/-! DEFINITION. The integer ALU instructions, OP-IMM and OP (43_integer_alu.md R300 to R321). -/

namespace Sys2Proof.Machine

/-- An immediate ALU operation: rs1 and the sign-extended immediate (R300). -/
def aluImm (f : Word → Word → Word) (rd rs1 : Reg) (imm : BitVec 12) (s : State) :
    Host.Outcome State Fault Refusal :=
  .next (s.setReg rd (f (s.reg rs1) (sext imm)))

/-- A shift by an immediate amount (R307 to R309). -/
def aluShift (f : Word → BitVec 5 → Word) (rd rs1 : Reg) (shamt : BitVec 5) (s : State) :
    Host.Outcome State Fault Refusal :=
  .next (s.setReg rd (f (s.reg rs1) shamt))

/-- A register ALU operation: both operands are read before the result is written (R300). -/
def aluReg (f : Word → Word → Word) (rd rs1 rs2 : Reg) (s : State) : Host.Outcome State Fault Refusal :=
  .next (s.setReg rd (f (s.reg rs1) (s.reg rs2)))

/-- `a << n`: "zeros enter at bit 0" (R307). -/
def shiftLeft (a : Word) (n : BitVec 5) : Word := a <<< n.toNat

/-- `a >>u n`: "zeros enter at bit 31" (R308). -/
def shiftRight (a : Word) (n : BitVec 5) : Word := a >>> n.toNat

/-- `a >>s n`: "copies of bit 31 enter at bit 31" (R309). -/
def shiftRightArith (a : Word) (n : BitVec 5) : Word := a.sshiftRight n.toNat

/-- "shift amounts masked to 5 bits": x[rs2][4:0] (R313). -/
def shiftAmount (b : Word) : BitVec 5 := b.extractLsb' 0 5

/-- ADDI (R301). -/
def execAddi (rd rs1 : Reg) (imm : BitVec 12) (s : State) : Host.Outcome State Fault Refusal :=
  aluImm (fun a b => a + b) rd rs1 imm s

/-- SLTI (R302). -/
def execSlti (rd rs1 : Reg) (imm : BitVec 12) (s : State) : Host.Outcome State Fault Refusal :=
  aluImm (fun a b => boolWord (lessSigned a b)) rd rs1 imm s

/-- SLTIU (R303, the immediate sign-extended and then compared as unsigned). -/
def execSltiu (rd rs1 : Reg) (imm : BitVec 12) (s : State) : Host.Outcome State Fault Refusal :=
  aluImm (fun a b => boolWord (lessUnsigned a b)) rd rs1 imm s

/-- XORI (R304). -/
def execXori (rd rs1 : Reg) (imm : BitVec 12) (s : State) : Host.Outcome State Fault Refusal :=
  aluImm (fun a b => a ^^^ b) rd rs1 imm s

/-- ORI (R305). -/
def execOri (rd rs1 : Reg) (imm : BitVec 12) (s : State) : Host.Outcome State Fault Refusal :=
  aluImm (fun a b => a ||| b) rd rs1 imm s

/-- ANDI (R306). -/
def execAndi (rd rs1 : Reg) (imm : BitVec 12) (s : State) : Host.Outcome State Fault Refusal :=
  aluImm (fun a b => a &&& b) rd rs1 imm s

/-- SLLI (R307). -/
def execSlli (rd rs1 : Reg) (shamt : BitVec 5) (s : State) : Host.Outcome State Fault Refusal :=
  aluShift shiftLeft rd rs1 shamt s

/-- SRLI (R308). -/
def execSrli (rd rs1 : Reg) (shamt : BitVec 5) (s : State) : Host.Outcome State Fault Refusal :=
  aluShift shiftRight rd rs1 shamt s

/-- SRAI (R309). -/
def execSrai (rd rs1 : Reg) (shamt : BitVec 5) (s : State) : Host.Outcome State Fault Refusal :=
  aluShift shiftRightArith rd rs1 shamt s

/-- ADD (R311). -/
def execAdd (rd rs1 rs2 : Reg) (s : State) : Host.Outcome State Fault Refusal :=
  aluReg (fun a b => a + b) rd rs1 rs2 s

/-- SUB (R312). -/
def execSub (rd rs1 rs2 : Reg) (s : State) : Host.Outcome State Fault Refusal :=
  aluReg (fun a b => a - b) rd rs1 rs2 s

/-- SLL (R313). -/
def execSll (rd rs1 rs2 : Reg) (s : State) : Host.Outcome State Fault Refusal :=
  aluReg (fun a b => shiftLeft a (shiftAmount b)) rd rs1 rs2 s

/-- SLT (R314). -/
def execSlt (rd rs1 rs2 : Reg) (s : State) : Host.Outcome State Fault Refusal :=
  aluReg (fun a b => boolWord (lessSigned a b)) rd rs1 rs2 s

/-- SLTU (R315). -/
def execSltu (rd rs1 rs2 : Reg) (s : State) : Host.Outcome State Fault Refusal :=
  aluReg (fun a b => boolWord (lessUnsigned a b)) rd rs1 rs2 s

/-- XOR (R316). -/
def execXor (rd rs1 rs2 : Reg) (s : State) : Host.Outcome State Fault Refusal :=
  aluReg (fun a b => a ^^^ b) rd rs1 rs2 s

/-- SRL (R317). -/
def execSrl (rd rs1 rs2 : Reg) (s : State) : Host.Outcome State Fault Refusal :=
  aluReg (fun a b => shiftRight a (shiftAmount b)) rd rs1 rs2 s

/-- SRA (R318). -/
def execSra (rd rs1 rs2 : Reg) (s : State) : Host.Outcome State Fault Refusal :=
  aluReg (fun a b => shiftRightArith a (shiftAmount b)) rd rs1 rs2 s

/-- OR (R319). -/
def execOr (rd rs1 rs2 : Reg) (s : State) : Host.Outcome State Fault Refusal :=
  aluReg (fun a b => a ||| b) rd rs1 rs2 s

/-- AND (R320). -/
def execAnd (rd rs1 rs2 : Reg) (s : State) : Host.Outcome State Fault Refusal :=
  aluReg (fun a b => a &&& b) rd rs1 rs2 s

end Sys2Proof.Machine
end

