-- ==== Sys2Proof/Machine/Atomic.lean ====
section
/-! DEFINITION. The atomic instructions (45_atomics.md R350 to R366). -/

namespace Sys2Proof.Machine

/-- "Before any translation the core checks ea[1:0] == 0" (R351). -/
def wordAligned (ea : Word) : Bool := ea.extractLsb' 0 2 == 0#2

/-- LR.W at ea (R352): load, then the reservation, then `rd`. -/
def loadReserved (rd : Reg) (ea : Word) (s : State) : Host.Outcome State Fault Refusal :=
  if wordAligned ea then
    finish ((memRead ea .word .R s).bind fun w s => .ok () ({ s with resv := some ea }.setReg rd w))
  else .next (takeException .loadMisaligned ea s)

/-- SC.W at ea (R353): the reservation is cleared regardless of outcome; a failure makes no memory access. -/
def storeConditional (rd : Reg) (v ea : Word) (s : State) : Host.Outcome State Fault Refusal :=
  if wordAligned ea then
    if s.resv = some ea then
      finish ((memWrite ea .word v { s with resv := none }).bind fun _ s => .ok () (s.setReg rd 0#32))
    else .next ({ s with resv := none }.setReg rd 1#32)
  else .next (takeException .storeMisaligned ea s)

/-- `Amo(f)` of R354: translated once, as a write; every fault is a store/AMO fault; `rd` gets the old word. -/
def amo (f : Word → Word → Word) (rd : Reg) (src ea : Word) (s : State) : Host.Outcome State Fault Refusal :=
  if wordAligned ea then
    finish ((translate ea .W s).bind fun pa s =>
      (busRead .W ea pa .word s).bind fun old s =>
        (busWrite ea pa .word (f old src) s).bind fun _ s => .ok () (s.setReg rd old))
  else .next (takeException .storeMisaligned ea s)

/-- Signed minimum (R359). -/
def minSigned (old src : Word) : Word := if old.toInt < src.toInt then old else src

/-- Signed maximum (R360). -/
def maxSigned (old src : Word) : Word := if old.toInt > src.toInt then old else src

/-- Unsigned minimum (R361). -/
def minUnsigned (old src : Word) : Word := if old.toNat < src.toNat then old else src

/-- Unsigned maximum (R362). -/
def maxUnsigned (old src : Word) : Word := if old.toNat > src.toNat then old else src

/-- LR.W (R352); aq and rl order nothing further (R350). -/
def execLrW (_aq _rl : Bool) (rd rs1 : Reg) (s : State) : Host.Outcome State Fault Refusal :=
  loadReserved rd (s.reg rs1) s

/-- SC.W (R353). -/
def execScW (_aq _rl : Bool) (rd rs2 rs1 : Reg) (s : State) : Host.Outcome State Fault Refusal :=
  storeConditional rd (s.reg rs2) (s.reg rs1) s

/-- AMOSWAP.W (R354). -/
def execAmoSwapW (_aq _rl : Bool) (rd rs2 rs1 : Reg) (s : State) : Host.Outcome State Fault Refusal :=
  amo (fun _ src => src) rd (s.reg rs2) (s.reg rs1) s

/-- AMOADD.W (R355). -/
def execAmoAddW (_aq _rl : Bool) (rd rs2 rs1 : Reg) (s : State) : Host.Outcome State Fault Refusal :=
  amo (fun old src => old + src) rd (s.reg rs2) (s.reg rs1) s

/-- AMOXOR.W (R356). -/
def execAmoXorW (_aq _rl : Bool) (rd rs2 rs1 : Reg) (s : State) : Host.Outcome State Fault Refusal :=
  amo (fun old src => old ^^^ src) rd (s.reg rs2) (s.reg rs1) s

/-- AMOAND.W (R357). -/
def execAmoAndW (_aq _rl : Bool) (rd rs2 rs1 : Reg) (s : State) : Host.Outcome State Fault Refusal :=
  amo (fun old src => old &&& src) rd (s.reg rs2) (s.reg rs1) s

/-- AMOOR.W (R358). -/
def execAmoOrW (_aq _rl : Bool) (rd rs2 rs1 : Reg) (s : State) : Host.Outcome State Fault Refusal :=
  amo (fun old src => old ||| src) rd (s.reg rs2) (s.reg rs1) s

/-- AMOMIN.W (R359). -/
def execAmoMinW (_aq _rl : Bool) (rd rs2 rs1 : Reg) (s : State) : Host.Outcome State Fault Refusal :=
  amo minSigned rd (s.reg rs2) (s.reg rs1) s

/-- AMOMAX.W (R360). -/
def execAmoMaxW (_aq _rl : Bool) (rd rs2 rs1 : Reg) (s : State) : Host.Outcome State Fault Refusal :=
  amo maxSigned rd (s.reg rs2) (s.reg rs1) s

/-- AMOMINU.W (R361). -/
def execAmoMinuW (_aq _rl : Bool) (rd rs2 rs1 : Reg) (s : State) : Host.Outcome State Fault Refusal :=
  amo minUnsigned rd (s.reg rs2) (s.reg rs1) s

/-- AMOMAXU.W (R362). -/
def execAmoMaxuW (_aq _rl : Bool) (rd rs2 rs1 : Reg) (s : State) : Host.Outcome State Fault Refusal :=
  amo maxUnsigned rd (s.reg rs2) (s.reg rs1) s

end Sys2Proof.Machine
end

