-- ==== Sys2Proof/Machine/Branch.lean ====
section
/-! DEFINITION. Branches and jumps (42_branches_jumps.md R280 to R291). -/

namespace Sys2Proof.Machine

/-- A branch: "A taken branch sets next_pc <- pc + offset; an untaken branch leaves next_pc" (R280). -/
def branchIf (taken : Bool) (offset : Word) (s : State) : Host.Outcome State Fault Refusal :=
  .next (if taken then s.setNextPc (s.pc + offset) else s)

/-- A jump: the link register receives the pre-commit `next_pc`; the target was computed before (R287, R288). -/
def jump (rd : Reg) (target : Word) (s : State) : Host.Outcome State Fault Refusal :=
  .next ((s.setNextPc target).setReg rd s.nextPc)

/-- The target of an indirect jump: "target's low bit is cleared" (R288). -/
def indirectTarget (base disp : Word) : Word := (base + disp) &&& 0xFFFFFFFE#32

/-- BEQ (R281). -/
def execBeq (rs1 rs2 : Reg) (off : BitVec 13) (s : State) : Host.Outcome State Fault Refusal :=
  branchIf (s.reg rs1 == s.reg rs2) (sext off) s

/-- BNE (R282). -/
def execBne (rs1 rs2 : Reg) (off : BitVec 13) (s : State) : Host.Outcome State Fault Refusal :=
  branchIf (s.reg rs1 != s.reg rs2) (sext off) s

/-- BLT (R283). -/
def execBlt (rs1 rs2 : Reg) (off : BitVec 13) (s : State) : Host.Outcome State Fault Refusal :=
  branchIf (lessSigned (s.reg rs1) (s.reg rs2)) (sext off) s

/-- BGE (R284). -/
def execBge (rs1 rs2 : Reg) (off : BitVec 13) (s : State) : Host.Outcome State Fault Refusal :=
  branchIf (!lessSigned (s.reg rs1) (s.reg rs2)) (sext off) s

/-- BLTU (R285). -/
def execBltu (rs1 rs2 : Reg) (off : BitVec 13) (s : State) : Host.Outcome State Fault Refusal :=
  branchIf (lessUnsigned (s.reg rs1) (s.reg rs2)) (sext off) s

/-- BGEU (R286). -/
def execBgeu (rs1 rs2 : Reg) (off : BitVec 13) (s : State) : Host.Outcome State Fault Refusal :=
  branchIf (!lessUnsigned (s.reg rs1) (s.reg rs2)) (sext off) s

/-- JAL (R287). -/
def execJal (rd : Reg) (off : BitVec 21) (s : State) : Host.Outcome State Fault Refusal :=
  jump rd (s.pc + sext off) s

/-- JALR (R288). -/
def execJalr (rd rs1 : Reg) (imm : BitVec 12) (s : State) : Host.Outcome State Fault Refusal :=
  jump rd (indirectTarget (s.reg rs1) (sext imm)) s

end Sys2Proof.Machine
end

