-- ==== Sys2Proof/Machine/LoadStore.lean ====
section
/-! DEFINITION. Loads and stores (41_loads_stores.md R260 to R269). -/

namespace Sys2Proof.Machine

/-- A load (R260): the address is formed first, and `rd` is written only after every part succeeded. -/
def load (w : Width) (extend : Word → Word) (rd : Reg) (ea : Word) (s : State) : Host.Outcome State Fault Refusal :=
  finish ((memRead ea w .R s).bind fun v s => .ok () (s.setReg rd (extend v)))

/-- A store of the low bytes of v (R260). -/
def store (w : Width) (v : Word) (ea : Word) (s : State) : Host.Outcome State Fault Refusal :=
  finish (memWrite ea w v s)

/-- `sext_8` of a loaded byte (R261). -/
def sextByte (v : Word) : Word := (v.setWidth 8).signExtend 32

/-- `sext_16` of a loaded halfword (R262). -/
def sextHalf (v : Word) : Word := (v.setWidth 16).signExtend 32

/-- The loaded value as it is: a word, or a byte or halfword zero-extended (R263, R264, R265). -/
def keep (v : Word) : Word := v

/-- LB (R261). -/
def execLb (rd rs1 : Reg) (imm : BitVec 12) (s : State) : Host.Outcome State Fault Refusal :=
  load .byte sextByte rd (s.ea rs1 (sext imm)) s

/-- LH (R262). -/
def execLh (rd rs1 : Reg) (imm : BitVec 12) (s : State) : Host.Outcome State Fault Refusal :=
  load .half sextHalf rd (s.ea rs1 (sext imm)) s

/-- LW (R263). -/
def execLw (rd rs1 : Reg) (imm : BitVec 12) (s : State) : Host.Outcome State Fault Refusal :=
  load .word keep rd (s.ea rs1 (sext imm)) s

/-- LBU (R264). -/
def execLbu (rd rs1 : Reg) (imm : BitVec 12) (s : State) : Host.Outcome State Fault Refusal :=
  load .byte keep rd (s.ea rs1 (sext imm)) s

/-- LHU (R265). -/
def execLhu (rd rs1 : Reg) (imm : BitVec 12) (s : State) : Host.Outcome State Fault Refusal :=
  load .half keep rd (s.ea rs1 (sext imm)) s

/-- SB (R266). -/
def execSb (rs2 rs1 : Reg) (imm : BitVec 12) (s : State) : Host.Outcome State Fault Refusal :=
  store .byte (s.reg rs2) (s.ea rs1 (sext imm)) s

/-- SH (R267). -/
def execSh (rs2 rs1 : Reg) (imm : BitVec 12) (s : State) : Host.Outcome State Fault Refusal :=
  store .half (s.reg rs2) (s.ea rs1 (sext imm)) s

/-- SW (R268). -/
def execSw (rs2 rs1 : Reg) (imm : BitVec 12) (s : State) : Host.Outcome State Fault Refusal :=
  store .word (s.reg rs2) (s.ea rs1 (sext imm)) s

end Sys2Proof.Machine
end

