-- ==== Sys2Proof/Machine/Compressed.lean ====
section
/-! DEFINITION. The compressed instructions (48_compressed.md R430 to R462): each over the shared operation of the 32-bit
instruction that defines it, on the operands its expansion names. `next_pc` and the link are at pc + 2 because the step set
`next_pc` so (R430 a). -/

namespace Sys2Proof.Machine

/-- C.ADDI4SPN: ADDI rd', x2, nzuimm (R432). -/
def execCAddi4spn (rd : CReg) (nzuimm : BitVec 10) (s : State) : Host.Outcome State Fault Refusal :=
  aluImm (fun a b => a + b) (cReg rd) 2#5 (nzuimm.setWidth 12) s

/-- C.LW: LW rd', uimm(rs1') (R433). -/
def execCLw (rd rs1 : CReg) (uimm : BitVec 7) (s : State) : Host.Outcome State Fault Refusal :=
  load .word keep (cReg rd) (s.ea (cReg rs1) (zext uimm)) s

/-- C.SW: SW rs2', uimm(rs1') (R434). -/
def execCSw (rs2 rs1 : CReg) (uimm : BitVec 7) (s : State) : Host.Outcome State Fault Refusal :=
  store .word (s.reg (cReg rs2)) (s.ea (cReg rs1) (zext uimm)) s

/-- C.NOP: ADDI x0, x0, imm, "which does nothing whatever the immediate" (R435, R461). -/
def execCNop (_imm : BitVec 6) (s : State) : Host.Outcome State Fault Refusal :=
  .next s

/-- C.ADDI: ADDI rd, rd, imm (R436). -/
def execCAddi (rd : Reg) (imm : BitVec 6) (s : State) : Host.Outcome State Fault Refusal :=
  aluImm (fun a b => a + b) rd rd (imm.signExtend 12) s

/-- C.JAL: JAL x1, offset (R437). -/
def execCJal (off : BitVec 12) (s : State) : Host.Outcome State Fault Refusal :=
  jump 1#5 (s.pc + sext off) s

/-- C.LI: ADDI rd, x0, imm (R438). -/
def execCLi (rd : Reg) (imm : BitVec 6) (s : State) : Host.Outcome State Fault Refusal :=
  .next (s.setReg rd (sext imm))

/-- C.ADDI16SP: ADDI x2, x2, imm (R439). -/
def execCAddi16sp (nzimm : BitVec 10) (s : State) : Host.Outcome State Fault Refusal :=
  aluImm (fun a b => a + b) 2#5 2#5 (nzimm.signExtend 12) s

/-- C.LUI: LUI rd, imm20 (R441). -/
def execCLui (rd : Reg) (nzimm : BitVec 6) (s : State) : Host.Outcome State Fault Refusal :=
  .next (s.setReg rd (upper (nzimm.signExtend 20)))

/-- C.SRLI: SRLI rd', rd', shamt (R442). -/
def execCSrli (rd : CReg) (shamt : BitVec 5) (s : State) : Host.Outcome State Fault Refusal :=
  aluShift shiftRight (cReg rd) (cReg rd) shamt s

/-- C.SRAI: SRAI rd', rd', shamt (R443). -/
def execCSrai (rd : CReg) (shamt : BitVec 5) (s : State) : Host.Outcome State Fault Refusal :=
  aluShift shiftRightArith (cReg rd) (cReg rd) shamt s

/-- C.ANDI: ANDI rd', rd', imm (R444). -/
def execCAndi (rd : CReg) (imm : BitVec 6) (s : State) : Host.Outcome State Fault Refusal :=
  aluImm (fun a b => a &&& b) (cReg rd) (cReg rd) (imm.signExtend 12) s

/-- C.SUB: SUB rd', rd', rs2' (R445). -/
def execCSub (rd rs2 : CReg) (s : State) : Host.Outcome State Fault Refusal :=
  aluReg (fun a b => a - b) (cReg rd) (cReg rd) (cReg rs2) s

/-- C.XOR: XOR rd', rd', rs2' (R446). -/
def execCXor (rd rs2 : CReg) (s : State) : Host.Outcome State Fault Refusal :=
  aluReg (fun a b => a ^^^ b) (cReg rd) (cReg rd) (cReg rs2) s

/-- C.OR: OR rd', rd', rs2' (R447). -/
def execCOr (rd rs2 : CReg) (s : State) : Host.Outcome State Fault Refusal :=
  aluReg (fun a b => a ||| b) (cReg rd) (cReg rd) (cReg rs2) s

/-- C.AND: AND rd', rd', rs2' (R448). -/
def execCAnd (rd rs2 : CReg) (s : State) : Host.Outcome State Fault Refusal :=
  aluReg (fun a b => a &&& b) (cReg rd) (cReg rd) (cReg rs2) s

/-- C.J: JAL x0, offset (R449). -/
def execCJ (off : BitVec 12) (s : State) : Host.Outcome State Fault Refusal :=
  jump 0#5 (s.pc + sext off) s

/-- C.BEQZ: BEQ rs1', x0, offset (R450). -/
def execCBeqz (rs1 : CReg) (off : BitVec 9) (s : State) : Host.Outcome State Fault Refusal :=
  branchIf (s.reg (cReg rs1) == 0#32) (sext off) s

/-- C.BNEZ: BNE rs1', x0, offset (R451). -/
def execCBnez (rs1 : CReg) (off : BitVec 9) (s : State) : Host.Outcome State Fault Refusal :=
  branchIf (s.reg (cReg rs1) != 0#32) (sext off) s

/-- C.SLLI: SLLI rd, rd, shamt (R452). -/
def execCSlli (rd : Reg) (shamt : BitVec 5) (s : State) : Host.Outcome State Fault Refusal :=
  aluShift shiftLeft rd rd shamt s

/-- C.LWSP: LW rd, uimm(x2) (R453). -/
def execCLwsp (rd : Reg) (uimm : BitVec 8) (s : State) : Host.Outcome State Fault Refusal :=
  load .word keep rd (s.ea 2#5 (zext uimm)) s

/-- C.JR: JALR x0, 0(rs1) (R454). -/
def execCJr (rs1 : Reg) (s : State) : Host.Outcome State Fault Refusal :=
  jump 0#5 (indirectTarget (s.reg rs1) 0#32) s

/-- C.MV: ADD rd, x0, rs2 (R455). -/
def execCMv (rd rs2 : Reg) (s : State) : Host.Outcome State Fault Refusal :=
  .next (s.setReg rd (s.reg rs2))

/-- C.EBREAK: EBREAK (R456). -/
def execCEbreak (s : State) : Host.Outcome State Fault Refusal :=
  .next (takeException .breakpoint 0#32 s)

/-- C.JALR: JALR x1, 0(rs1) (R457). -/
def execCJalr (rs1 : Reg) (s : State) : Host.Outcome State Fault Refusal :=
  jump 1#5 (indirectTarget (s.reg rs1) 0#32) s

/-- C.ADD: ADD rd, rd, rs2 (R458). -/
def execCAdd (rd rs2 : Reg) (s : State) : Host.Outcome State Fault Refusal :=
  aluReg (fun a b => a + b) rd rd rs2 s

/-- C.SWSP: SW rs2, uimm(x2) (R459). -/
def execCSwsp (rs2 : Reg) (uimm : BitVec 8) (s : State) : Host.Outcome State Fault Refusal :=
  store .word (s.reg rs2) (s.ea 2#5 (zext uimm)) s

end Sys2Proof.Machine
end

