-- ==== Sys2Proof/Machine/MulDiv.lean ====
section
/-! DEFINITION. Multiply and divide (44_muldiv.md R330 to R339). -/

namespace Sys2Proof.Machine

/-- A multiply or divide: "Each reads x[rs1] and x[rs2], computes a 32-bit word and writes x[rd]" (R330). -/
def mulDiv (f : Word → Word → Word) (rd rs1 rs2 : Reg) (s : State) : Host.Outcome State Fault Refusal :=
  .next (s.setReg rd (f (s.reg rs1) (s.reg rs2)))

/-- `P[63:32]` of the 64-bit two's-complement representation of an exact product (R330). -/
def highWord (p : Int) : Word := (BitVec.ofInt 64 p).extractLsb' 32 32

/-- `(a * b)[31:0]` (R331). -/
def mulLow (a b : Word) : Word := BitVec.ofNat 32 (a.toNat * b.toNat)

/-- The high word, signed x signed (R332). -/
def mulHigh (a b : Word) : Word := highWord (a.toInt * b.toInt)

/-- The high word, signed a x unsigned b (R333). -/
def mulHighSU (a b : Word) : Word := highWord (a.toInt * (b.toNat : Int))

/-- The high word, unsigned x unsigned (R334). -/
def mulHighU (a b : Word) : Word := highWord ((a.toNat : Int) * (b.toNat : Int))

/-- Signed division, rounding toward zero; by zero all ones; on overflow the dividend (R335). -/
def divSigned (a b : Word) : Word :=
  if b = 0#32 then 0xFFFFFFFF#32
  else if a = 0x80000000#32 ∧ b = 0xFFFFFFFF#32 then 0x80000000#32
  else BitVec.ofInt 32 (Int.tdiv a.toInt b.toInt)

/-- Unsigned division; by zero all ones (R336). -/
def divUnsigned (a b : Word) : Word :=
  if b = 0#32 then 0xFFFFFFFF#32 else BitVec.ofNat 32 (a.toNat / b.toNat)

/-- Signed remainder, `a - b * trunc(a / b)`; by zero the dividend; on overflow 0 (R337). -/
def remSigned (a b : Word) : Word :=
  if b = 0#32 then a
  else if a = 0x80000000#32 ∧ b = 0xFFFFFFFF#32 then 0#32
  else BitVec.ofInt 32 (a.toInt - b.toInt * Int.tdiv a.toInt b.toInt)

/-- Unsigned remainder; by zero the dividend (R338). -/
def remUnsigned (a b : Word) : Word := if b = 0#32 then a else BitVec.ofNat 32 (a.toNat % b.toNat)

/-! The construction of R339, "four 16x16 partial products with explicit carry propagation". The meanings use the exact
products above; that the two agree is a statement. -/

/-- The low and the high word of the unsigned product by partial products (R339). -/
def mulByParts (a b : Word) : Word × Word :=
  let aL := (a.extractLsb' 0 16).setWidth 32
  let aH := (a.extractLsb' 16 16).setWidth 32
  let bL := (b.extractLsb' 0 16).setWidth 32
  let bH := (b.extractLsb' 16 16).setWidth 32
  let p0 := aL * bL
  let p1 := aL * bH
  let p2 := aH * bL
  let p3 := aH * bH
  let mid := (p0 >>> 16) + (p1 &&& 0xFFFF#32) + (p2 &&& 0xFFFF#32)
  (((mid &&& 0xFFFF#32) <<< 16) ||| (p0 &&& 0xFFFF#32), p3 + (p1 >>> 16) + (p2 >>> 16) + (mid >>> 16))

/-- `hi - (a[31] ? b : 0) - (b[31] ? a : 0)` (R339). -/
def mulHighByParts (a b : Word) : Word :=
  (mulByParts a b).2 - (if a.msb then b else 0#32) - (if b.msb then a else 0#32)

/-- `hi - (a[31] ? b : 0)` (R339). -/
def mulHighSUByParts (a b : Word) : Word := (mulByParts a b).2 - (if a.msb then b else 0#32)

/-- MUL (R331). -/
def execMul (rd rs1 rs2 : Reg) (s : State) : Host.Outcome State Fault Refusal :=
  mulDiv mulLow rd rs1 rs2 s

/-- MULH (R332). -/
def execMulh (rd rs1 rs2 : Reg) (s : State) : Host.Outcome State Fault Refusal :=
  mulDiv mulHigh rd rs1 rs2 s

/-- MULHSU (R333). -/
def execMulhsu (rd rs1 rs2 : Reg) (s : State) : Host.Outcome State Fault Refusal :=
  mulDiv mulHighSU rd rs1 rs2 s

/-- MULHU (R334). -/
def execMulhu (rd rs1 rs2 : Reg) (s : State) : Host.Outcome State Fault Refusal :=
  mulDiv mulHighU rd rs1 rs2 s

/-- DIV (R335). -/
def execDiv (rd rs1 rs2 : Reg) (s : State) : Host.Outcome State Fault Refusal :=
  mulDiv divSigned rd rs1 rs2 s

/-- DIVU (R336). -/
def execDivu (rd rs1 rs2 : Reg) (s : State) : Host.Outcome State Fault Refusal :=
  mulDiv divUnsigned rd rs1 rs2 s

/-- REM (R337). -/
def execRem (rd rs1 rs2 : Reg) (s : State) : Host.Outcome State Fault Refusal :=
  mulDiv remSigned rd rs1 rs2 s

/-- REMU (R338). -/
def execRemu (rd rs1 rs2 : Reg) (s : State) : Host.Outcome State Fault Refusal :=
  mulDiv remUnsigned rd rs1 rs2 s

end Sys2Proof.Machine
end

