-- ==== Sys2Proof/Machine/Csr.lean ====
section
/-! DEFINITION. The CSR file's map and access gate (10_state.md R32 to R61) and the common procedure of the six CSR
instructions (46_system_csr.md R381). -/

namespace Sys2Proof.Machine

/-- A storage location of the CSR file (R32), or the constant 0 of R59. -/
inductive CsrSlot where
  | mstatus
  | misa
  | medeleg
  | mideleg
  | mie
  | mip
  | mtvec
  | mscratch
  | mepc
  | mcause
  | mtval
  | mcounteren
  | stvec
  | sscratch
  | sepc
  | scause
  | stval
  | scounteren
  | satp
  | cycleLo
  | cycleHi
  | zero
deriving DecidableEq, Repr

/-- A row of the map (R40). The minimum privilege and the read-only mark are bits of the number (R33). -/
structure CsrRow where
  num   : CsrNum
  slot  : CsrSlot
  rmask : Word
  wmask : Word
deriving DecidableEq, Repr

/-- The supervisor rows of R40. -/
def csrMapS : List CsrRow :=
  [⟨0x100#12, .mstatus, 0x000C0122#32, 0x000C0122#32⟩,
   ⟨0x104#12, .mie, 0x00000222#32, 0x00000222#32⟩,
   ⟨0x105#12, .stvec, 0xFFFFFFFF#32, 0xFFFFFFFD#32⟩,
   ⟨0x106#12, .scounteren, 0xFFFFFFFF#32, 0xFFFFFFFF#32⟩,
   ⟨0x140#12, .sscratch, 0xFFFFFFFF#32, 0xFFFFFFFF#32⟩,
   ⟨0x141#12, .sepc, 0xFFFFFFFF#32, 0xFFFFFFFE#32⟩,
   ⟨0x142#12, .scause, 0xFFFFFFFF#32, 0xFFFFFFFF#32⟩,
   ⟨0x143#12, .stval, 0xFFFFFFFF#32, 0xFFFFFFFF#32⟩,
   ⟨0x144#12, .mip, 0x00000222#32, 0x00000002#32⟩,
   ⟨0x180#12, .satp, 0xFFFFFFFF#32, 0xFFFFFFFF#32⟩]

/-- The machine rows of R40 that software may write. -/
def csrMapM : List CsrRow :=
  [⟨0x300#12, .mstatus, 0x001E19AA#32, 0x001E19AA#32⟩,
   ⟨0x301#12, .misa, 0xFFFFFFFF#32, 0x00000000#32⟩,
   ⟨0x302#12, .medeleg, 0xFFFFFFFF#32, 0x0000B3FF#32⟩,
   ⟨0x303#12, .mideleg, 0xFFFFFFFF#32, 0x00000222#32⟩,
   ⟨0x304#12, .mie, 0xFFFFFFFF#32, 0x00000AAA#32⟩,
   ⟨0x305#12, .mtvec, 0xFFFFFFFF#32, 0xFFFFFFFD#32⟩,
   ⟨0x306#12, .mcounteren, 0xFFFFFFFF#32, 0xFFFFFFFF#32⟩,
   ⟨0x340#12, .mscratch, 0xFFFFFFFF#32, 0xFFFFFFFF#32⟩,
   ⟨0x341#12, .mepc, 0xFFFFFFFF#32, 0xFFFFFFFE#32⟩,
   ⟨0x342#12, .mcause, 0xFFFFFFFF#32, 0xFFFFFFFF#32⟩,
   ⟨0x343#12, .mtval, 0xFFFFFFFF#32, 0xFFFFFFFF#32⟩,
   ⟨0x344#12, .mip, 0xFFFFFFFF#32, 0x00000222#32⟩,
   ⟨0xB00#12, .cycleLo, 0xFFFFFFFF#32, 0xFFFFFFFF#32⟩,
   ⟨0xB80#12, .cycleHi, 0xFFFFFFFF#32, 0xFFFFFFFF#32⟩]

/-- The read-only rows of R40 (bits 11:10 of the number are 11); a write never reaches their mask. -/
def csrMapRO : List CsrRow :=
  [⟨0xC00#12, .cycleLo, 0xFFFFFFFF#32, 0x00000000#32⟩,
   ⟨0xC80#12, .cycleHi, 0xFFFFFFFF#32, 0x00000000#32⟩,
   ⟨0xF11#12, .zero, 0xFFFFFFFF#32, 0x00000000#32⟩,
   ⟨0xF12#12, .zero, 0xFFFFFFFF#32, 0x00000000#32⟩,
   ⟨0xF13#12, .zero, 0xFFFFFFFF#32, 0x00000000#32⟩,
   ⟨0xF14#12, .zero, 0xFFFFFFFF#32, 0x00000000#32⟩]

/-- CSR_MAP (R5, R40): "a lookup table keyed by CSR number". -/
def csrMap : List CsrRow := csrMapS ++ csrMapM ++ csrMapRO

/-- The row of a CSR number; none where the number is unmapped (R60). -/
def csrRow (n : CsrNum) : Option CsrRow := csrMap.find? fun r => r.num == n

/-- The word in a storage location. -/
def Csrs.get (c : Csrs) : CsrSlot → Word
  | .mstatus => c.mstatus
  | .misa => c.misa
  | .medeleg => c.medeleg
  | .mideleg => c.mideleg
  | .mie => c.mie
  | .mip => c.mip
  | .mtvec => c.mtvec
  | .mscratch => c.mscratch
  | .mepc => c.mepc
  | .mcause => c.mcause
  | .mtval => c.mtval
  | .mcounteren => c.mcounteren
  | .stvec => c.stvec
  | .sscratch => c.sscratch
  | .sepc => c.sepc
  | .scause => c.scause
  | .stval => c.stval
  | .scounteren => c.scounteren
  | .satp => c.satp
  | .cycleLo => c.cycleLo
  | .cycleHi => c.cycleHi
  | .zero => 0#32

/-- Replace the word in a storage location; the constant has none. -/
def Csrs.put (c : Csrs) (slot : CsrSlot) (v : Word) : Csrs :=
  match slot with
  | .mstatus => { c with mstatus := v }
  | .misa => { c with misa := v }
  | .medeleg => { c with medeleg := v }
  | .mideleg => { c with mideleg := v }
  | .mie => { c with mie := v }
  | .mip => { c with mip := v }
  | .mtvec => { c with mtvec := v }
  | .mscratch => { c with mscratch := v }
  | .mepc => { c with mepc := v }
  | .mcause => { c with mcause := v }
  | .mtval => { c with mtval := v }
  | .mcounteren => { c with mcounteren := v }
  | .stvec => { c with stvec := v }
  | .sscratch => { c with sscratch := v }
  | .sepc => { c with sepc := v }
  | .scause => { c with scause := v }
  | .stval => { c with stval := v }
  | .scounteren => { c with scounteren := v }
  | .satp => { c with satp := v }
  | .cycleLo => { c with cycleLo := v }
  | .cycleHi => { c with cycleHi := v }
  | .zero => c

/-- The number of `satp` (R40). -/
def satpNum : CsrNum := 0x180#12

/-- `n[9:8]`: the minimum privilege, 2 "treated as needing M" (R33). -/
def csrMinPriv (n : CsrNum) : Priv := Priv.ofBits (n.extractLsb' 8 2)

/-- `n[11:10] = 0b11`: read-only (R33). -/
def csrReadOnly (n : CsrNum) : Bool := n.extractLsb' 10 2 == 3#2

/-- `CsrCheck(n, is_write)` (R34): true is `ok`. -/
def csrCheck (n : CsrNum) (isWrite : Bool) (s : State) : Bool :=
  (csrRow n).isSome
    && !s.priv.below (csrMinPriv n)
    && !(isWrite && csrReadOnly n)
    && !(!isWrite && n == satpNum && s.priv == .S && statusTVM s.csr.mstatus)

/-- `CsrRead(n)` (R35), asked only where the check passes. -/
def csrRead (n : CsrNum) (s : State) : Word :=
  match csrRow n with
  | some r => s.csr.get r.slot &&& r.rmask
  | none => 0#32

/-- The masked write of R36. -/
def maskedWrite (old wmask v : Word) : Word := (old &&& ~~~wmask) ||| (v &&& wmask)

/-- "When CsrWrite to mstatus would set MPP to 0b10, the MPP field keeps its previous value" (R61). -/
def legalMstatus (old new : Word) : Word := if statusMPP new = 2#2 then putMPP new (statusMPP old) else new

/-- The word a write through a row leaves in its storage (R36, R61). -/
def csrStored (r : CsrRow) (old v : Word) : Word :=
  match r.slot with
  | .mstatus => legalMstatus old (maskedWrite old r.wmask v)
  | _ => maskedWrite old r.wmask v

/-- "A write to the translation-root register additionally triggers the TLB invalidation and address-space-id refresh"
(R37). -/
def satpSideEffect (s : State) : State :=
  { tlbFlushNonGlobal s with asidCache := satpAsid s.csr.satp }

/-- `CsrWrite(n, v)` (R36, R37, R61), asked only where the check passes. -/
def csrWrite (n : CsrNum) (v : Word) (s : State) : State :=
  match csrRow n with
  | some r =>
    let s := { s with csr := s.csr.put r.slot (csrStored r (s.csr.get r.slot) v) }
    if n = satpNum then satpSideEffect s else s
  | none => s

/-- `CsrOp` (R381): both checks precede any state change; the old value is read, the new one written if `doWrite`, and the
old one goes to `rd`. -/
def csrOp (n : CsrNum) (doWrite : Bool) (new : Word → Word) (rd : Reg) (s : State) :
    Host.Outcome State Fault Refusal :=
  if !csrCheck n false s then illegalInstruction s
  else if doWrite && !csrCheck n true s then illegalInstruction s
  else
    let old := csrRead n s
    let s := if doWrite then csrWrite n (new old) s else s
    .next (s.setReg rd old)

end Sys2Proof.Machine
end

