-- ==== Sys2Proof/Machine/System.lean ====
section
/-! DEFINITION. System, CSR, privileged and fence instructions (46_system_csr.md R380 to R398). -/

namespace Sys2Proof.Machine

/-- The CSR immediate: `zext_5(inst[19:15])` (R380). -/
def uimmWord (uimm : BitVec 5) : Word := zext uimm

/-- Swap: the new value is the source (R382). -/
def csrSwap (src : Word) : Word → Word := fun _ => src

/-- Set bits: `old | src` (R383). -/
def csrSet (src : Word) : Word → Word := fun old => old ||| src

/-- Clear bits: `old & ~src` (R384). -/
def csrClear (src : Word) : Word → Word := fun old => old &&& ~~~src

/-- The environment call of the current privilege (R390). -/
def ecallExc : Priv → Exc
  | .U => .ecallU
  | .S => .ecallS
  | .M => .ecallM

/-- CSRRW (R382). -/
def execCsrrw (rd : Reg) (csr : CsrNum) (rs1 : Reg) (s : State) : Host.Outcome State Fault Refusal :=
  csrOp csr true (csrSwap (s.reg rs1)) rd s

/-- CSRRS (R383): a write access iff the register NUMBER is not 0. -/
def execCsrrs (rd : Reg) (csr : CsrNum) (rs1 : Reg) (s : State) : Host.Outcome State Fault Refusal :=
  csrOp csr (rs1 != 0#5) (csrSet (s.reg rs1)) rd s

/-- CSRRC (R384). -/
def execCsrrc (rd : Reg) (csr : CsrNum) (rs1 : Reg) (s : State) : Host.Outcome State Fault Refusal :=
  csrOp csr (rs1 != 0#5) (csrClear (s.reg rs1)) rd s

/-- CSRRWI (R385). -/
def execCsrrwi (rd : Reg) (csr : CsrNum) (uimm : BitVec 5) (s : State) : Host.Outcome State Fault Refusal :=
  csrOp csr true (csrSwap (uimmWord uimm)) rd s

/-- CSRRSI (R386). -/
def execCsrrsi (rd : Reg) (csr : CsrNum) (uimm : BitVec 5) (s : State) : Host.Outcome State Fault Refusal :=
  csrOp csr (uimm != 0#5) (csrSet (uimmWord uimm)) rd s

/-- CSRRCI (R387). -/
def execCsrrci (rd : Reg) (csr : CsrNum) (uimm : BitVec 5) (s : State) : Host.Outcome State Fault Refusal :=
  csrOp csr (uimm != 0#5) (csrClear (uimmWord uimm)) rd s

/-- MRET (R388): illegal below M. -/
def execMret (s : State) : Host.Outcome State Fault Refusal :=
  if s.priv = .M then .next (returnFromM s) else illegalInstruction s

/-- SRET (R389): legal in S and in M. -/
def execSret (s : State) : Host.Outcome State Fault Refusal :=
  if s.priv = .U then illegalInstruction s else .next (returnFromS s)

/-- ECALL (R390): trap value 0. -/
def execEcall (s : State) : Host.Outcome State Fault Refusal :=
  .next (takeException (ecallExc s.priv) 0#32 s)

/-- EBREAK (R391): trap value 0. -/
def execEbreak (s : State) : Host.Outcome State Fault Refusal :=
  .next (takeException .breakpoint 0#32 s)

/-- WFI (R392): it never stalls; its tail commits, makes the one interrupt check and sets the result. -/
def execWfi (s : State) : Host.Outcome State Fault Refusal :=
  .next (wfiTail s)

/-- SFENCE.VMA (R394): rs1 and rs2 are not read. -/
def execSfenceVma (_rs1 _rs2 : Reg) (s : State) : Host.Outcome State Fault Refusal :=
  if s.priv = .U then illegalInstruction s
  else if s.priv = .S ∧ statusTVM s.csr.mstatus = true then illegalInstruction s
  else .next (tlbFlushAll s)

/-- FENCE (R396): "Does nothing"; its fields are ignored. -/
def execFence (_fm _pred _succ : BitVec 4) (_rs1 _rd : Reg) (s : State) : Host.Outcome State Fault Refusal :=
  .next s

/-- FENCE.I (R397): "Does nothing". -/
def execFenceI (_imm : BitVec 12) (_rs1 _rd : Reg) (s : State) : Host.Outcome State Fault Refusal :=
  .next s

end Sys2Proof.Machine
end

