-- ==== Sys2Proof/Machine/Upper.lean ====
section
/-! DEFINITION. LUI and AUIPC (47_upper_immediate.md R420, R421). -/

namespace Sys2Proof.Machine

/-- LUI: `x[rd] <- imm_U` (R420). -/
def execLui (rd : Reg) (imm : BitVec 20) (s : State) : Host.Outcome State Fault Refusal :=
  .next (s.setReg rd (upper imm))

/-- AUIPC: `x[rd] <- pc + imm_U`, pc the address of the AUIPC itself (R421). -/
def execAuipc (rd : Reg) (imm : BitVec 20) (s : State) : Host.Outcome State Fault Refusal :=
  .next (s.setReg rd (s.pc + upper imm))

end Sys2Proof.Machine
end

