-- ==== Sys2Proof/Machine/Dispatch.lean ====
section
/-! DEFINITION. The dispatch of 40_step.md R236: one arm for each instruction, each a call of that instruction's own
meaning. -/

namespace Sys2Proof.Machine

def exec (i : Instr) (s : State) : Host.Outcome State Fault Refusal :=
  match i with
  | .lui rd imm => Sys2Proof.Machine.execLui rd imm s
  | .auipc rd imm => Sys2Proof.Machine.execAuipc rd imm s
  | .jal rd off => Sys2Proof.Machine.execJal rd off s
  | .jalr rd rs1 imm => Sys2Proof.Machine.execJalr rd rs1 imm s
  | .beq rs1 rs2 off => Sys2Proof.Machine.execBeq rs1 rs2 off s
  | .bne rs1 rs2 off => Sys2Proof.Machine.execBne rs1 rs2 off s
  | .blt rs1 rs2 off => Sys2Proof.Machine.execBlt rs1 rs2 off s
  | .bge rs1 rs2 off => Sys2Proof.Machine.execBge rs1 rs2 off s
  | .bltu rs1 rs2 off => Sys2Proof.Machine.execBltu rs1 rs2 off s
  | .bgeu rs1 rs2 off => Sys2Proof.Machine.execBgeu rs1 rs2 off s
  | .lb rd rs1 imm => Sys2Proof.Machine.execLb rd rs1 imm s
  | .lh rd rs1 imm => Sys2Proof.Machine.execLh rd rs1 imm s
  | .lw rd rs1 imm => Sys2Proof.Machine.execLw rd rs1 imm s
  | .lbu rd rs1 imm => Sys2Proof.Machine.execLbu rd rs1 imm s
  | .lhu rd rs1 imm => Sys2Proof.Machine.execLhu rd rs1 imm s
  | .sb rs2 rs1 imm => Sys2Proof.Machine.execSb rs2 rs1 imm s
  | .sh rs2 rs1 imm => Sys2Proof.Machine.execSh rs2 rs1 imm s
  | .sw rs2 rs1 imm => Sys2Proof.Machine.execSw rs2 rs1 imm s
  | .addi rd rs1 imm => Sys2Proof.Machine.execAddi rd rs1 imm s
  | .slti rd rs1 imm => Sys2Proof.Machine.execSlti rd rs1 imm s
  | .sltiu rd rs1 imm => Sys2Proof.Machine.execSltiu rd rs1 imm s
  | .xori rd rs1 imm => Sys2Proof.Machine.execXori rd rs1 imm s
  | .ori rd rs1 imm => Sys2Proof.Machine.execOri rd rs1 imm s
  | .andi rd rs1 imm => Sys2Proof.Machine.execAndi rd rs1 imm s
  | .slli rd rs1 shamt => Sys2Proof.Machine.execSlli rd rs1 shamt s
  | .srli rd rs1 shamt => Sys2Proof.Machine.execSrli rd rs1 shamt s
  | .srai rd rs1 shamt => Sys2Proof.Machine.execSrai rd rs1 shamt s
  | .add rd rs1 rs2 => Sys2Proof.Machine.execAdd rd rs1 rs2 s
  | .sub rd rs1 rs2 => Sys2Proof.Machine.execSub rd rs1 rs2 s
  | .sll rd rs1 rs2 => Sys2Proof.Machine.execSll rd rs1 rs2 s
  | .slt rd rs1 rs2 => Sys2Proof.Machine.execSlt rd rs1 rs2 s
  | .sltu rd rs1 rs2 => Sys2Proof.Machine.execSltu rd rs1 rs2 s
  | .xor rd rs1 rs2 => Sys2Proof.Machine.execXor rd rs1 rs2 s
  | .srl rd rs1 rs2 => Sys2Proof.Machine.execSrl rd rs1 rs2 s
  | .sra rd rs1 rs2 => Sys2Proof.Machine.execSra rd rs1 rs2 s
  | .or rd rs1 rs2 => Sys2Proof.Machine.execOr rd rs1 rs2 s
  | .and rd rs1 rs2 => Sys2Proof.Machine.execAnd rd rs1 rs2 s
  | .mul rd rs1 rs2 => Sys2Proof.Machine.execMul rd rs1 rs2 s
  | .mulh rd rs1 rs2 => Sys2Proof.Machine.execMulh rd rs1 rs2 s
  | .mulhsu rd rs1 rs2 => Sys2Proof.Machine.execMulhsu rd rs1 rs2 s
  | .mulhu rd rs1 rs2 => Sys2Proof.Machine.execMulhu rd rs1 rs2 s
  | .div rd rs1 rs2 => Sys2Proof.Machine.execDiv rd rs1 rs2 s
  | .divu rd rs1 rs2 => Sys2Proof.Machine.execDivu rd rs1 rs2 s
  | .rem rd rs1 rs2 => Sys2Proof.Machine.execRem rd rs1 rs2 s
  | .remu rd rs1 rs2 => Sys2Proof.Machine.execRemu rd rs1 rs2 s
  | .fence fm pred succ rs1 rd => Sys2Proof.Machine.execFence fm pred succ rs1 rd s
  | .fenceI imm rs1 rd => Sys2Proof.Machine.execFenceI imm rs1 rd s
  | .ecall => Sys2Proof.Machine.execEcall s
  | .ebreak => Sys2Proof.Machine.execEbreak s
  | .sret => Sys2Proof.Machine.execSret s
  | .mret => Sys2Proof.Machine.execMret s
  | .wfi => Sys2Proof.Machine.execWfi s
  | .sfenceVma rs1 rs2 => Sys2Proof.Machine.execSfenceVma rs1 rs2 s
  | .csrrw rd csr rs1 => Sys2Proof.Machine.execCsrrw rd csr rs1 s
  | .csrrs rd csr rs1 => Sys2Proof.Machine.execCsrrs rd csr rs1 s
  | .csrrc rd csr rs1 => Sys2Proof.Machine.execCsrrc rd csr rs1 s
  | .csrrwi rd csr uimm => Sys2Proof.Machine.execCsrrwi rd csr uimm s
  | .csrrsi rd csr uimm => Sys2Proof.Machine.execCsrrsi rd csr uimm s
  | .csrrci rd csr uimm => Sys2Proof.Machine.execCsrrci rd csr uimm s
  | .lrW aq rl rd rs1 => Sys2Proof.Machine.execLrW aq rl rd rs1 s
  | .scW aq rl rd rs2 rs1 => Sys2Proof.Machine.execScW aq rl rd rs2 rs1 s
  | .amoSwapW aq rl rd rs2 rs1 => Sys2Proof.Machine.execAmoSwapW aq rl rd rs2 rs1 s
  | .amoAddW aq rl rd rs2 rs1 => Sys2Proof.Machine.execAmoAddW aq rl rd rs2 rs1 s
  | .amoXorW aq rl rd rs2 rs1 => Sys2Proof.Machine.execAmoXorW aq rl rd rs2 rs1 s
  | .amoAndW aq rl rd rs2 rs1 => Sys2Proof.Machine.execAmoAndW aq rl rd rs2 rs1 s
  | .amoOrW aq rl rd rs2 rs1 => Sys2Proof.Machine.execAmoOrW aq rl rd rs2 rs1 s
  | .amoMinW aq rl rd rs2 rs1 => Sys2Proof.Machine.execAmoMinW aq rl rd rs2 rs1 s
  | .amoMaxW aq rl rd rs2 rs1 => Sys2Proof.Machine.execAmoMaxW aq rl rd rs2 rs1 s
  | .amoMinuW aq rl rd rs2 rs1 => Sys2Proof.Machine.execAmoMinuW aq rl rd rs2 rs1 s
  | .amoMaxuW aq rl rd rs2 rs1 => Sys2Proof.Machine.execAmoMaxuW aq rl rd rs2 rs1 s
  | .cAddi4spn rd nzuimm => Sys2Proof.Machine.execCAddi4spn rd nzuimm s
  | .cLw rd rs1 uimm => Sys2Proof.Machine.execCLw rd rs1 uimm s
  | .cSw rs2 rs1 uimm => Sys2Proof.Machine.execCSw rs2 rs1 uimm s
  | .cNop imm => Sys2Proof.Machine.execCNop imm s
  | .cAddi rd imm => Sys2Proof.Machine.execCAddi rd imm s
  | .cJal off => Sys2Proof.Machine.execCJal off s
  | .cLi rd imm => Sys2Proof.Machine.execCLi rd imm s
  | .cAddi16sp nzimm => Sys2Proof.Machine.execCAddi16sp nzimm s
  | .cLui rd nzimm => Sys2Proof.Machine.execCLui rd nzimm s
  | .cSrli rd shamt => Sys2Proof.Machine.execCSrli rd shamt s
  | .cSrai rd shamt => Sys2Proof.Machine.execCSrai rd shamt s
  | .cAndi rd imm => Sys2Proof.Machine.execCAndi rd imm s
  | .cSub rd rs2 => Sys2Proof.Machine.execCSub rd rs2 s
  | .cXor rd rs2 => Sys2Proof.Machine.execCXor rd rs2 s
  | .cOr rd rs2 => Sys2Proof.Machine.execCOr rd rs2 s
  | .cAnd rd rs2 => Sys2Proof.Machine.execCAnd rd rs2 s
  | .cJ off => Sys2Proof.Machine.execCJ off s
  | .cBeqz rs1 off => Sys2Proof.Machine.execCBeqz rs1 off s
  | .cBnez rs1 off => Sys2Proof.Machine.execCBnez rs1 off s
  | .cSlli rd shamt => Sys2Proof.Machine.execCSlli rd shamt s
  | .cLwsp rd uimm => Sys2Proof.Machine.execCLwsp rd uimm s
  | .cJr rs1 => Sys2Proof.Machine.execCJr rs1 s
  | .cMv rd rs2 => Sys2Proof.Machine.execCMv rd rs2 s
  | .cEbreak => Sys2Proof.Machine.execCEbreak s
  | .cJalr rs1 => Sys2Proof.Machine.execCJalr rs1 s
  | .cAdd rd rs2 => Sys2Proof.Machine.execCAdd rd rs2 s
  | .cSwsp rs2 uimm => Sys2Proof.Machine.execCSwsp rs2 uimm s

end Sys2Proof.Machine
end

