-- ==== Sys2Proof/WellFormed.lean ====
section
/-! DEFINITION. Which instruction terms the encodings of spec/ can express: an offset is even (30_encoding.md R193), a
scaled immediate has its low bits 0 and a field that must not be 0 is not (48_compressed.md R432 to R459, the `constraint`
of a row of spec/opcode_table.json). The decoder yields only well-formed instructions, and the encoder is its inverse on
them. -/

namespace Sys2Proof

/-- Bit 0 is 0: the byte offset of a branch or jump (R193, R437, R450). -/
def isEven {n : Nat} (off : BitVec n) : Bool := !off.getLsbD 0

/-- The instruction is one that an encoding of the spec expresses. -/
def Instr.wf : Instr → Bool
  | .lui _ _ => true
  | .auipc _ _ => true
  | .jal _ off => isEven off
  | .jalr _ _ _ => true
  | .beq _ _ off => isEven off
  | .bne _ _ off => isEven off
  | .blt _ _ off => isEven off
  | .bge _ _ off => isEven off
  | .bltu _ _ off => isEven off
  | .bgeu _ _ off => isEven off
  | .lb _ _ _ => true
  | .lh _ _ _ => true
  | .lw _ _ _ => true
  | .lbu _ _ _ => true
  | .lhu _ _ _ => true
  | .sb _ _ _ => true
  | .sh _ _ _ => true
  | .sw _ _ _ => true
  | .addi _ _ _ => true
  | .slti _ _ _ => true
  | .sltiu _ _ _ => true
  | .xori _ _ _ => true
  | .ori _ _ _ => true
  | .andi _ _ _ => true
  | .slli _ _ _ => true
  | .srli _ _ _ => true
  | .srai _ _ _ => true
  | .add _ _ _ => true
  | .sub _ _ _ => true
  | .sll _ _ _ => true
  | .slt _ _ _ => true
  | .sltu _ _ _ => true
  | .xor _ _ _ => true
  | .srl _ _ _ => true
  | .sra _ _ _ => true
  | .or _ _ _ => true
  | .and _ _ _ => true
  | .mul _ _ _ => true
  | .mulh _ _ _ => true
  | .mulhsu _ _ _ => true
  | .mulhu _ _ _ => true
  | .div _ _ _ => true
  | .divu _ _ _ => true
  | .rem _ _ _ => true
  | .remu _ _ _ => true
  | .fence _ _ _ _ _ => true
  | .fenceI _ _ _ => true
  | .ecall => true
  | .ebreak => true
  | .sret => true
  | .mret => true
  | .wfi => true
  | .sfenceVma _ _ => true
  | .csrrw _ _ _ => true
  | .csrrs _ _ _ => true
  | .csrrc _ _ _ => true
  | .csrrwi _ _ _ => true
  | .csrrsi _ _ _ => true
  | .csrrci _ _ _ => true
  | .lrW _ _ _ _ => true
  | .scW _ _ _ _ _ => true
  | .amoSwapW _ _ _ _ _ => true
  | .amoAddW _ _ _ _ _ => true
  | .amoXorW _ _ _ _ _ => true
  | .amoAndW _ _ _ _ _ => true
  | .amoOrW _ _ _ _ _ => true
  | .amoMinW _ _ _ _ _ => true
  | .amoMaxW _ _ _ _ _ => true
  | .amoMinuW _ _ _ _ _ => true
  | .amoMaxuW _ _ _ _ _ => true
  | .cAddi4spn _ nzuimm => (nzuimm.extractLsb' 0 2 == 0#2) && (nzuimm != 0#10)
  | .cLw _ _ uimm => uimm.extractLsb' 0 2 == 0#2
  | .cSw _ _ uimm => uimm.extractLsb' 0 2 == 0#2
  | .cNop _ => true
  | .cAddi rd _ => rd != 0#5
  | .cJal off => isEven off
  | .cLi _ _ => true
  | .cAddi16sp nzimm => (nzimm.extractLsb' 0 4 == 0#4) && (nzimm != 0#10)
  | .cLui rd nzimm => (rd != 2#5) && (nzimm != 0#6)
  | .cSrli _ _ => true
  | .cSrai _ _ => true
  | .cAndi _ _ => true
  | .cSub _ _ => true
  | .cXor _ _ => true
  | .cOr _ _ => true
  | .cAnd _ _ => true
  | .cJ off => isEven off
  | .cBeqz _ off => isEven off
  | .cBnez _ off => isEven off
  | .cSlli _ _ => true
  | .cLwsp rd uimm => (uimm.extractLsb' 0 2 == 0#2) && (rd != 0#5)
  | .cJr rs1 => rs1 != 0#5
  | .cMv _ rs2 => rs2 != 0#5
  | .cEbreak => true
  | .cJalr rs1 => rs1 != 0#5
  | .cAdd _ rs2 => rs2 != 0#5
  | .cSwsp _ uimm => uimm.extractLsb' 0 2 == 0#2

end Sys2Proof
end

