-- ==== Sys2Proof/Decode.lean ====
section
/-! DEFINITION. Decoding and encoding, from 30_encoding.md (R190 to R207) and 48_compressed.md (R430 to R462). Decoding
is total and rejects by name (R202); the encoder after it is written from the same formats. A slice v[hi:lo] of the spec
is v.extractLsb' lo (hi - lo + 1). -/

namespace Sys2Proof

/-- Why a word or a halfword is no instruction of this core (R203, R206, R207, R460). Every reason leads to the same
exception, illegal-instruction; the names are for the reader. -/
inductive Illegal where
  /-- `inst[6:0]` is not in R200: floating point, custom, 64-bit-only and every other opcode -/
  | majorOpcode
  /-- JALR with `funct3` other than 0 (R289) -/
  | jalrFunct3
  /-- BRANCH with `funct3` 2 or 3 (R289) -/
  | branchFunct3
  /-- LOAD with `funct3` 3, 6 or 7 (R269) -/
  | loadFunct3
  /-- STORE with `funct3` 3 to 7 (R269) -/
  | storeFunct3
  /-- an immediate shift whose `funct7` is not the shift's own: an out-of-range amount (R307, R308) -/
  | shiftFunct7
  /-- OP with an unknown `funct7`, or 0x20 with `funct3` other than 0 or 5 (R321) -/
  | opFunct7
  /-- MISC-MEM with `funct3` other than 0 or 1 (R398) -/
  | miscMemFunct3
  /-- AMO with `funct3` other than 2, or an unknown `funct5`, or LR.W with `rs2` not 0 (R365) -/
  | amoForm
  /-- SYSTEM with `funct3` 4, or `funct3` 0 and no word or pattern of R201 (R398) -/
  | systemForm
  /-- a compressed row whose immediate must not be 0 and is (R432, R439, R441) -/
  | compressedZeroImm
  /-- a compressed row whose register must not be x0 and is (R453, R454) -/
  | compressedZeroReg
  /-- a compressed shift amount with bit 5 set (R442, R443, R452) -/
  | compressedShift
  /-- a floating-point row, a 64-bit-only row or a reserved row of R206 -/
  | compressedReserved
  /-- fewer bytes than the instruction has (a byte string only; a fetch always brings them all) -/
  | truncated
deriving DecidableEq, Repr

/-- LOAD, `opcode` 0x03 (R201, R269). -/
def decodeLoad (w : Word) : Except Illegal Instr :=
  let rd := w.extractLsb' 7 5
  let rs1 := w.extractLsb' 15 5
  let imm := w.extractLsb' 20 12
  match w.extractLsb' 12 3 with
  | 0#3 => .ok (.lb rd rs1 imm)
  | 1#3 => .ok (.lh rd rs1 imm)
  | 2#3 => .ok (.lw rd rs1 imm)
  | 4#3 => .ok (.lbu rd rs1 imm)
  | 5#3 => .ok (.lhu rd rs1 imm)
  | _ => .error .loadFunct3

/-- STORE, `opcode` 0x23, format S (R192, R201, R269). -/
def decodeStore (w : Word) : Except Illegal Instr :=
  let rs1 := w.extractLsb' 15 5
  let rs2 := w.extractLsb' 20 5
  let imm : BitVec 12 := w.extractLsb' 25 7 ++ w.extractLsb' 7 5
  match w.extractLsb' 12 3 with
  | 0#3 => .ok (.sb rs2 rs1 imm)
  | 1#3 => .ok (.sh rs2 rs1 imm)
  | 2#3 => .ok (.sw rs2 rs1 imm)
  | _ => .error .storeFunct3

/-- The byte offset of a B-format word (R193, without its sign extension). -/
def branchOffset (w : Word) : BitVec 13 :=
  w.extractLsb' 31 1 ++ w.extractLsb' 7 1 ++ w.extractLsb' 25 6 ++ w.extractLsb' 8 4 ++ 0#1

/-- The byte offset of a J-format word (R193, without its sign extension). -/
def jumpOffset (w : Word) : BitVec 21 :=
  w.extractLsb' 31 1 ++ w.extractLsb' 12 8 ++ w.extractLsb' 20 1 ++ w.extractLsb' 21 10 ++ 0#1

/-- BRANCH, `opcode` 0x63 (R201, R289). -/
def decodeBranch (w : Word) : Except Illegal Instr :=
  let rs1 := w.extractLsb' 15 5
  let rs2 := w.extractLsb' 20 5
  let off := branchOffset w
  match w.extractLsb' 12 3 with
  | 0#3 => .ok (.beq rs1 rs2 off)
  | 1#3 => .ok (.bne rs1 rs2 off)
  | 4#3 => .ok (.blt rs1 rs2 off)
  | 5#3 => .ok (.bge rs1 rs2 off)
  | 6#3 => .ok (.bltu rs1 rs2 off)
  | 7#3 => .ok (.bgeu rs1 rs2 off)
  | _ => .error .branchFunct3

/-- OP-IMM, `opcode` 0x13 (R201, R203). -/
def decodeOpImm (w : Word) : Except Illegal Instr :=
  let rd := w.extractLsb' 7 5
  let rs1 := w.extractLsb' 15 5
  let imm := w.extractLsb' 20 12
  let shamt := w.extractLsb' 20 5
  let funct7 := w.extractLsb' 25 7
  match w.extractLsb' 12 3 with
  | 0#3 => .ok (.addi rd rs1 imm)
  | 1#3 => if funct7 = 0x00#7 then .ok (.slli rd rs1 shamt) else .error .shiftFunct7
  | 2#3 => .ok (.slti rd rs1 imm)
  | 3#3 => .ok (.sltiu rd rs1 imm)
  | 4#3 => .ok (.xori rd rs1 imm)
  | 5#3 =>
    if funct7 = 0x00#7 then .ok (.srli rd rs1 shamt)
    else if funct7 = 0x20#7 then .ok (.srai rd rs1 shamt)
    else .error .shiftFunct7
  | 6#3 => .ok (.ori rd rs1 imm)
  | _ => .ok (.andi rd rs1 imm)

/-- OP with `funct7` = 0x00 (R201). -/
def decodeOpBase (f3 : BitVec 3) (rd rs1 rs2 : Reg) : Instr :=
  match f3 with
  | 0#3 => .add rd rs1 rs2
  | 1#3 => .sll rd rs1 rs2
  | 2#3 => .slt rd rs1 rs2
  | 3#3 => .sltu rd rs1 rs2
  | 4#3 => .xor rd rs1 rs2
  | 5#3 => .srl rd rs1 rs2
  | 6#3 => .or rd rs1 rs2
  | _ => .and rd rs1 rs2

/-- OP with `funct7` = 0x01: the multiply/divide extension (R201). -/
def decodeOpMul (f3 : BitVec 3) (rd rs1 rs2 : Reg) : Instr :=
  match f3 with
  | 0#3 => .mul rd rs1 rs2
  | 1#3 => .mulh rd rs1 rs2
  | 2#3 => .mulhsu rd rs1 rs2
  | 3#3 => .mulhu rd rs1 rs2
  | 4#3 => .div rd rs1 rs2
  | 5#3 => .divu rd rs1 rs2
  | 6#3 => .rem rd rs1 rs2
  | _ => .remu rd rs1 rs2

/-- OP, `opcode` 0x33 (R201, R321). -/
def decodeOp (w : Word) : Except Illegal Instr :=
  let rd := w.extractLsb' 7 5
  let rs1 := w.extractLsb' 15 5
  let rs2 := w.extractLsb' 20 5
  let f3 := w.extractLsb' 12 3
  match w.extractLsb' 25 7 with
  | 0x00#7 => .ok (decodeOpBase f3 rd rs1 rs2)
  | 0x01#7 => .ok (decodeOpMul f3 rd rs1 rs2)
  | 0x20#7 =>
    match f3 with
    | 0#3 => .ok (.sub rd rs1 rs2)
    | 5#3 => .ok (.sra rd rs1 rs2)
    | _ => .error .opFunct7
  | _ => .error .opFunct7

/-- MISC-MEM, `opcode` 0x0F (R201, R396, R397). -/
def decodeMiscMem (w : Word) : Except Illegal Instr :=
  let rd := w.extractLsb' 7 5
  let rs1 := w.extractLsb' 15 5
  match w.extractLsb' 12 3 with
  | 0#3 => .ok (.fence (w.extractLsb' 28 4) (w.extractLsb' 24 4) (w.extractLsb' 20 4) rs1 rd)
  | 1#3 => .ok (.fenceI (w.extractLsb' 20 12) rs1 rd)
  | _ => .error .miscMemFunct3

/-- SYSTEM, `opcode` 0x73 (R201, R398). -/
def decodeSystem (w : Word) : Except Illegal Instr :=
  let rd := w.extractLsb' 7 5
  let rs1 := w.extractLsb' 15 5
  let rs2 := w.extractLsb' 20 5
  let csr := w.extractLsb' 20 12
  match w.extractLsb' 12 3 with
  | 0#3 =>
    if w = 0x00000073#32 then .ok .ecall
    else if w = 0x00100073#32 then .ok .ebreak
    else if w = 0x10200073#32 then .ok .sret
    else if w = 0x30200073#32 then .ok .mret
    else if w = 0x10500073#32 then .ok .wfi
    else if w.extractLsb' 25 7 = 0x09#7 ∧ rd = 0#5 then .ok (.sfenceVma rs1 rs2)
    else .error .systemForm
  | 1#3 => .ok (.csrrw rd csr rs1)
  | 2#3 => .ok (.csrrs rd csr rs1)
  | 3#3 => .ok (.csrrc rd csr rs1)
  | 5#3 => .ok (.csrrwi rd csr rs1)
  | 6#3 => .ok (.csrrsi rd csr rs1)
  | 7#3 => .ok (.csrrci rd csr rs1)
  | _ => .error .systemForm

/-- AMO, `opcode` 0x2F (R201, R365). -/
def decodeAmo (w : Word) : Except Illegal Instr :=
  let rd := w.extractLsb' 7 5
  let rs1 := w.extractLsb' 15 5
  let rs2 := w.extractLsb' 20 5
  let aq := w.getLsbD 26
  let rl := w.getLsbD 25
  if w.extractLsb' 12 3 = 2#3 then
    match w.extractLsb' 27 5 with
    | 0x00#5 => .ok (.amoAddW aq rl rd rs2 rs1)
    | 0x01#5 => .ok (.amoSwapW aq rl rd rs2 rs1)
    | 0x02#5 => if rs2 = 0#5 then .ok (.lrW aq rl rd rs1) else .error .amoForm
    | 0x03#5 => .ok (.scW aq rl rd rs2 rs1)
    | 0x04#5 => .ok (.amoXorW aq rl rd rs2 rs1)
    | 0x08#5 => .ok (.amoOrW aq rl rd rs2 rs1)
    | 0x0C#5 => .ok (.amoAndW aq rl rd rs2 rs1)
    | 0x10#5 => .ok (.amoMinW aq rl rd rs2 rs1)
    | 0x14#5 => .ok (.amoMaxW aq rl rd rs2 rs1)
    | 0x18#5 => .ok (.amoMinuW aq rl rd rs2 rs1)
    | 0x1C#5 => .ok (.amoMaxuW aq rl rd rs2 rs1)
    | _ => .error .amoForm
  else .error .amoForm

/-- A 32-bit instruction word, by its major opcode (R200, R201, R203). -/
def decode32 (w : Word) : Except Illegal Instr :=
  let rd := w.extractLsb' 7 5
  match w.extractLsb' 0 7 with
  | 0x03#7 => decodeLoad w
  | 0x0F#7 => decodeMiscMem w
  | 0x13#7 => decodeOpImm w
  | 0x17#7 => .ok (.auipc rd (w.extractLsb' 12 20))
  | 0x23#7 => decodeStore w
  | 0x2F#7 => decodeAmo w
  | 0x33#7 => decodeOp w
  | 0x37#7 => .ok (.lui rd (w.extractLsb' 12 20))
  | 0x63#7 => decodeBranch w
  | 0x67#7 =>
    if w.extractLsb' 12 3 = 0#3 then .ok (.jalr rd (w.extractLsb' 15 5) (w.extractLsb' 20 12))
    else .error .jalrFunct3
  | 0x6F#7 => .ok (.jal rd (jumpOffset w))
  | 0x73#7 => decodeSystem w
  | _ => .error .majorOpcode

/-- Quadrant 0, `c[1:0]` = 00 (R206, R432 to R434). -/
def decodeQuadrant0 (c : Half) : Except Illegal Instr :=
  let rdp := c.extractLsb' 2 3
  let rs1p := c.extractLsb' 7 3
  let wordOff : BitVec 7 := c.extractLsb' 5 1 ++ c.extractLsb' 10 3 ++ c.extractLsb' 6 1 ++ 0#2
  match c.extractLsb' 13 3 with
  | 0#3 =>
    let nzuimm : BitVec 10 :=
      c.extractLsb' 7 4 ++ c.extractLsb' 11 2 ++ c.extractLsb' 5 1 ++ c.extractLsb' 6 1 ++ 0#2
    if nzuimm = 0#10 then .error .compressedZeroImm else .ok (.cAddi4spn rdp nzuimm)
  | 2#3 => .ok (.cLw rdp rs1p wordOff)
  | 6#3 => .ok (.cSw rdp rs1p wordOff)
  | _ => .error .compressedReserved

/-- The byte offset of C.JAL and C.J (R437). -/
def cjOffset (c : Half) : BitVec 12 :=
  c.extractLsb' 12 1 ++ c.extractLsb' 8 1 ++ c.extractLsb' 9 2 ++ c.extractLsb' 6 1 ++ c.extractLsb' 7 1
    ++ c.extractLsb' 2 1 ++ c.extractLsb' 11 1 ++ c.extractLsb' 3 3 ++ 0#1

/-- The byte offset of C.BEQZ and C.BNEZ (R450). -/
def cbOffset (c : Half) : BitVec 9 :=
  c.extractLsb' 12 1 ++ c.extractLsb' 5 2 ++ c.extractLsb' 2 1 ++ c.extractLsb' 10 2 ++ c.extractLsb' 3 2 ++ 0#1

/-- Quadrant 1 `funct3` 100 (R206, R442 to R448). -/
def decodeCArith (c : Half) : Except Illegal Instr :=
  let rdp := c.extractLsb' 7 3
  let rs2p := c.extractLsb' 2 3
  let shamt := c.extractLsb' 2 5
  let imm6 : BitVec 6 := c.extractLsb' 12 1 ++ c.extractLsb' 2 5
  match c.extractLsb' 10 2 with
  | 0#2 => if c.getLsbD 12 then .error .compressedShift else .ok (.cSrli rdp shamt)
  | 1#2 => if c.getLsbD 12 then .error .compressedShift else .ok (.cSrai rdp shamt)
  | 2#2 => .ok (.cAndi rdp imm6)
  | _ =>
    if c.getLsbD 12 then .error .compressedReserved
    else match c.extractLsb' 5 2 with
      | 0#2 => .ok (.cSub rdp rs2p)
      | 1#2 => .ok (.cXor rdp rs2p)
      | 2#2 => .ok (.cOr rdp rs2p)
      | _ => .ok (.cAnd rdp rs2p)

/-- Quadrant 1, `c[1:0]` = 01 (R206, R435 to R451, R462). -/
def decodeQuadrant1 (c : Half) : Except Illegal Instr :=
  let rd := c.extractLsb' 7 5
  let rs1p := c.extractLsb' 7 3
  let imm6 : BitVec 6 := c.extractLsb' 12 1 ++ c.extractLsb' 2 5
  match c.extractLsb' 13 3 with
  | 0#3 => if rd = 0#5 then .ok (.cNop imm6) else .ok (.cAddi rd imm6)
  | 1#3 => .ok (.cJal (cjOffset c))
  | 2#3 => .ok (.cLi rd imm6)
  | 3#3 =>
    if imm6 = 0#6 then .error .compressedZeroImm
    else if rd = 2#5 then
      .ok (.cAddi16sp (c.extractLsb' 12 1 ++ c.extractLsb' 3 2 ++ c.extractLsb' 5 1 ++ c.extractLsb' 2 1
        ++ c.extractLsb' 6 1 ++ 0#4))
    else .ok (.cLui rd imm6)
  | 4#3 => decodeCArith c
  | 5#3 => .ok (.cJ (cjOffset c))
  | 6#3 => .ok (.cBeqz rs1p (cbOffset c))
  | _ => .ok (.cBnez rs1p (cbOffset c))

/-- Quadrant 2, `c[1:0]` = 10 (R206, R452 to R459, R462). -/
def decodeQuadrant2 (c : Half) : Except Illegal Instr :=
  let rd := c.extractLsb' 7 5
  let rs2 := c.extractLsb' 2 5
  match c.extractLsb' 13 3 with
  | 0#3 => if c.getLsbD 12 then .error .compressedShift else .ok (.cSlli rd rs2)
  | 2#3 =>
    if rd = 0#5 then .error .compressedZeroReg
    else .ok (.cLwsp rd (c.extractLsb' 2 2 ++ c.extractLsb' 12 1 ++ c.extractLsb' 4 3 ++ 0#2))
  | 4#3 =>
    if c.getLsbD 12 then
      if rs2 = 0#5 then (if rd = 0#5 then .ok .cEbreak else .ok (.cJalr rd)) else .ok (.cAdd rd rs2)
    else
      if rs2 = 0#5 then (if rd = 0#5 then .error .compressedZeroReg else .ok (.cJr rd)) else .ok (.cMv rd rs2)
  | 6#3 => .ok (.cSwsp rs2 (c.extractLsb' 7 2 ++ c.extractLsb' 9 4 ++ 0#2))
  | _ => .error .compressedReserved

/-- A 16-bit instruction, by its quadrant (R205, R206). A halfword whose low bits are 11 is no compressed instruction;
`decode` never asks for one. -/
def decode16 (c : Half) : Except Illegal Instr :=
  match c.extractLsb' 0 2 with
  | 0#2 => decodeQuadrant0 c
  | 1#2 => decodeQuadrant1 c
  | 2#2 => decodeQuadrant2 c
  | _ => .error .majorOpcode

/-- The low two bits say that the unit is 32 bits long (R190). -/
def isLong (raw : Word) : Bool := raw.extractLsb' 0 2 == 3#2

/-- The instruction in the undecoded bits `raw`: the 32-bit word, or the halfword in bits 15:0 (R190, R233, R236). -/
def decode (raw : Word) : Except Illegal Instr :=
  if isLong raw then decode32 raw else decode16 (raw.extractLsb' 0 16)

/-- The instruction at the head of a byte string, and the bytes after it: little-endian halfwords (R104, R190). -/
def decodeBytes : List Byte → Except Illegal (Instr × List Byte)
  | b0 :: b1 :: rest =>
    let half : Half := b1 ++ b0
    if half.extractLsb' 0 2 = 3#2 then
      match rest with
      | b2 :: b3 :: rest' =>
        match decode32 (b3 ++ b2 ++ half) with
        | .ok i => .ok (i, rest')
        | .error e => .error e
      | _ => .error .truncated
    else
      match decode16 half with
      | .ok i => .ok (i, rest)
      | .error e => .error e
  | _ => .error .truncated

/-- The bits of a table row, cut to its `nbits` bits: what stands in memory from the fetch address on, every later bit 0. -/
def tableWord (nbits w : Nat) : Word := BitVec.ofNat 32 (w % 2 ^ nbits)

/-- The instruction the decoder reads from a table row's word, laid out as four little-endian bytes (R104). -/
def decodeTableWord (nbits w : Nat) : Option Instr :=
  let raw := tableWord nbits w
  match decodeBytes [raw.extractLsb' 0 8, raw.extractLsb' 8 8, raw.extractLsb' 16 8, raw.extractLsb' 24 8] with
  | .ok (i, _) => some i
  | .error _ => none

/-! ### The encoder, from the same formats -/

/-- Format R (R192). -/
def encR (funct7 : BitVec 7) (rs2 rs1 : Reg) (funct3 : BitVec 3) (rd : Reg) (opcode : BitVec 7) : Word :=
  funct7 ++ rs2 ++ rs1 ++ funct3 ++ rd ++ opcode

/-- Formats I and I-csr (R192). -/
def encI (imm : BitVec 12) (rs1 : Reg) (funct3 : BitVec 3) (rd : Reg) (opcode : BitVec 7) : Word :=
  imm ++ rs1 ++ funct3 ++ rd ++ opcode

/-- Format S (R192). -/
def encS (imm : BitVec 12) (rs2 rs1 : Reg) (funct3 : BitVec 3) (opcode : BitVec 7) : Word :=
  imm.extractLsb' 5 7 ++ rs2 ++ rs1 ++ funct3 ++ imm.extractLsb' 0 5 ++ opcode

/-- Format B (R192). -/
def encB (off : BitVec 13) (rs2 rs1 : Reg) (funct3 : BitVec 3) : Word :=
  off.extractLsb' 12 1 ++ off.extractLsb' 5 6 ++ rs2 ++ rs1 ++ funct3 ++ off.extractLsb' 1 4 ++ off.extractLsb' 11 1
    ++ 0x63#7

/-- Format U (R192). -/
def encU (imm : BitVec 20) (rd : Reg) (opcode : BitVec 7) : Word := imm ++ rd ++ opcode

/-- Format J (R192). -/
def encJ (off : BitVec 21) (rd : Reg) : Word :=
  off.extractLsb' 20 1 ++ off.extractLsb' 1 10 ++ off.extractLsb' 11 1 ++ off.extractLsb' 12 8 ++ rd ++ 0x6F#7

/-- Format R-amo (R192). -/
def encAmo (funct5 : BitVec 5) (aq rl : Bool) (rs2 rs1 rd : Reg) : Word :=
  funct5 ++ BitVec.ofBool aq ++ BitVec.ofBool rl ++ rs2 ++ rs1 ++ 2#3 ++ rd ++ 0x2F#7

/-- Format CI with a 6-bit immediate `c[12] : c[6:2]` (R205). -/
def encCI (funct3 : BitVec 3) (imm : BitVec 6) (rd : Reg) (op : BitVec 2) : Half :=
  funct3 ++ imm.extractLsb' 5 1 ++ rd ++ imm.extractLsb' 0 5 ++ op

/-- The formats CL and CS of C.LW and C.SW (R433, R434). -/
def encCMem (funct3 : BitVec 3) (uimm : BitVec 7) (rs1 r : CReg) : Half :=
  funct3 ++ uimm.extractLsb' 3 3 ++ rs1 ++ uimm.extractLsb' 2 1 ++ uimm.extractLsb' 6 1 ++ r ++ 0#2

/-- Format CJ (R437). -/
def encCJ (funct3 : BitVec 3) (off : BitVec 12) : Half :=
  funct3 ++ off.extractLsb' 11 1 ++ off.extractLsb' 4 1 ++ off.extractLsb' 8 2 ++ off.extractLsb' 10 1
    ++ off.extractLsb' 6 1 ++ off.extractLsb' 7 1 ++ off.extractLsb' 1 3 ++ off.extractLsb' 5 1 ++ 1#2

/-- Format CB of the branches (R450). -/
def encCB (funct3 : BitVec 3) (rs1 : CReg) (off : BitVec 9) : Half :=
  funct3 ++ off.extractLsb' 8 1 ++ off.extractLsb' 3 2 ++ rs1 ++ off.extractLsb' 6 2 ++ off.extractLsb' 1 2
    ++ off.extractLsb' 5 1 ++ 1#2

/-- Format CA (R205), and the two shifts of format CB with `c[12]` = 0, whose `c[6:2]` is the amount (R442). -/
def encCA (funct6 : BitVec 6) (rd : CReg) (low5 : BitVec 5) : Half := funct6 ++ rd ++ low5 ++ 1#2

/-- Format CR (R205). -/
def encCR (funct4 : BitVec 4) (rd rs2 : Reg) : Half := funct4 ++ rd ++ rs2 ++ 2#2

/-- A halfword as the undecoded bits of an instruction: zero above bit 15 (R202, R430). -/
def ofHalf (c : Half) : Word := c.setWidth 32

/-- The undecoded bits of an instruction: the 32-bit word (R201), or the halfword, zero-extended (R432 to R459). -/
def encode : Instr → Word
  | .lui rd imm => encU imm rd 0x37#7
  | .auipc rd imm => encU imm rd 0x17#7
  | .jal rd off => encJ off rd
  | .jalr rd rs1 imm => encI imm rs1 0#3 rd 0x67#7
  | .beq rs1 rs2 off => encB off rs2 rs1 0#3
  | .bne rs1 rs2 off => encB off rs2 rs1 1#3
  | .blt rs1 rs2 off => encB off rs2 rs1 4#3
  | .bge rs1 rs2 off => encB off rs2 rs1 5#3
  | .bltu rs1 rs2 off => encB off rs2 rs1 6#3
  | .bgeu rs1 rs2 off => encB off rs2 rs1 7#3
  | .lb rd rs1 imm => encI imm rs1 0#3 rd 0x03#7
  | .lh rd rs1 imm => encI imm rs1 1#3 rd 0x03#7
  | .lw rd rs1 imm => encI imm rs1 2#3 rd 0x03#7
  | .lbu rd rs1 imm => encI imm rs1 4#3 rd 0x03#7
  | .lhu rd rs1 imm => encI imm rs1 5#3 rd 0x03#7
  | .sb rs2 rs1 imm => encS imm rs2 rs1 0#3 0x23#7
  | .sh rs2 rs1 imm => encS imm rs2 rs1 1#3 0x23#7
  | .sw rs2 rs1 imm => encS imm rs2 rs1 2#3 0x23#7
  | .addi rd rs1 imm => encI imm rs1 0#3 rd 0x13#7
  | .slti rd rs1 imm => encI imm rs1 2#3 rd 0x13#7
  | .sltiu rd rs1 imm => encI imm rs1 3#3 rd 0x13#7
  | .xori rd rs1 imm => encI imm rs1 4#3 rd 0x13#7
  | .ori rd rs1 imm => encI imm rs1 6#3 rd 0x13#7
  | .andi rd rs1 imm => encI imm rs1 7#3 rd 0x13#7
  | .slli rd rs1 shamt => encR 0x00#7 shamt rs1 1#3 rd 0x13#7
  | .srli rd rs1 shamt => encR 0x00#7 shamt rs1 5#3 rd 0x13#7
  | .srai rd rs1 shamt => encR 0x20#7 shamt rs1 5#3 rd 0x13#7
  | .add rd rs1 rs2 => encR 0x00#7 rs2 rs1 0#3 rd 0x33#7
  | .sub rd rs1 rs2 => encR 0x20#7 rs2 rs1 0#3 rd 0x33#7
  | .sll rd rs1 rs2 => encR 0x00#7 rs2 rs1 1#3 rd 0x33#7
  | .slt rd rs1 rs2 => encR 0x00#7 rs2 rs1 2#3 rd 0x33#7
  | .sltu rd rs1 rs2 => encR 0x00#7 rs2 rs1 3#3 rd 0x33#7
  | .xor rd rs1 rs2 => encR 0x00#7 rs2 rs1 4#3 rd 0x33#7
  | .srl rd rs1 rs2 => encR 0x00#7 rs2 rs1 5#3 rd 0x33#7
  | .sra rd rs1 rs2 => encR 0x20#7 rs2 rs1 5#3 rd 0x33#7
  | .or rd rs1 rs2 => encR 0x00#7 rs2 rs1 6#3 rd 0x33#7
  | .and rd rs1 rs2 => encR 0x00#7 rs2 rs1 7#3 rd 0x33#7
  | .mul rd rs1 rs2 => encR 0x01#7 rs2 rs1 0#3 rd 0x33#7
  | .mulh rd rs1 rs2 => encR 0x01#7 rs2 rs1 1#3 rd 0x33#7
  | .mulhsu rd rs1 rs2 => encR 0x01#7 rs2 rs1 2#3 rd 0x33#7
  | .mulhu rd rs1 rs2 => encR 0x01#7 rs2 rs1 3#3 rd 0x33#7
  | .div rd rs1 rs2 => encR 0x01#7 rs2 rs1 4#3 rd 0x33#7
  | .divu rd rs1 rs2 => encR 0x01#7 rs2 rs1 5#3 rd 0x33#7
  | .rem rd rs1 rs2 => encR 0x01#7 rs2 rs1 6#3 rd 0x33#7
  | .remu rd rs1 rs2 => encR 0x01#7 rs2 rs1 7#3 rd 0x33#7
  | .fence fm pred succ rs1 rd => encI (fm ++ pred ++ succ) rs1 0#3 rd 0x0F#7
  | .fenceI imm rs1 rd => encI imm rs1 1#3 rd 0x0F#7
  | .ecall => 0x00000073#32
  | .ebreak => 0x00100073#32
  | .sret => 0x10200073#32
  | .mret => 0x30200073#32
  | .wfi => 0x10500073#32
  | .sfenceVma rs1 rs2 => encR 0x09#7 rs2 rs1 0#3 0#5 0x73#7
  | .csrrw rd csr rs1 => encI csr rs1 1#3 rd 0x73#7
  | .csrrs rd csr rs1 => encI csr rs1 2#3 rd 0x73#7
  | .csrrc rd csr rs1 => encI csr rs1 3#3 rd 0x73#7
  | .csrrwi rd csr uimm => encI csr uimm 5#3 rd 0x73#7
  | .csrrsi rd csr uimm => encI csr uimm 6#3 rd 0x73#7
  | .csrrci rd csr uimm => encI csr uimm 7#3 rd 0x73#7
  | .lrW aq rl rd rs1 => encAmo 0x02#5 aq rl 0#5 rs1 rd
  | .scW aq rl rd rs2 rs1 => encAmo 0x03#5 aq rl rs2 rs1 rd
  | .amoSwapW aq rl rd rs2 rs1 => encAmo 0x01#5 aq rl rs2 rs1 rd
  | .amoAddW aq rl rd rs2 rs1 => encAmo 0x00#5 aq rl rs2 rs1 rd
  | .amoXorW aq rl rd rs2 rs1 => encAmo 0x04#5 aq rl rs2 rs1 rd
  | .amoAndW aq rl rd rs2 rs1 => encAmo 0x0C#5 aq rl rs2 rs1 rd
  | .amoOrW aq rl rd rs2 rs1 => encAmo 0x08#5 aq rl rs2 rs1 rd
  | .amoMinW aq rl rd rs2 rs1 => encAmo 0x10#5 aq rl rs2 rs1 rd
  | .amoMaxW aq rl rd rs2 rs1 => encAmo 0x14#5 aq rl rs2 rs1 rd
  | .amoMinuW aq rl rd rs2 rs1 => encAmo 0x18#5 aq rl rs2 rs1 rd
  | .amoMaxuW aq rl rd rs2 rs1 => encAmo 0x1C#5 aq rl rs2 rs1 rd
  | .cAddi4spn rd nzuimm =>
    ofHalf (0#3 ++ nzuimm.extractLsb' 4 2 ++ nzuimm.extractLsb' 6 4 ++ nzuimm.extractLsb' 2 1
      ++ nzuimm.extractLsb' 3 1 ++ rd ++ 0#2)
  | .cLw rd rs1 uimm => ofHalf (encCMem 2#3 uimm rs1 rd)
  | .cSw rs2 rs1 uimm => ofHalf (encCMem 6#3 uimm rs1 rs2)
  | .cNop imm => ofHalf (encCI 0#3 imm 0#5 1#2)
  | .cAddi rd imm => ofHalf (encCI 0#3 imm rd 1#2)
  | .cJal off => ofHalf (encCJ 1#3 off)
  | .cLi rd imm => ofHalf (encCI 2#3 imm rd 1#2)
  | .cAddi16sp nzimm =>
    ofHalf (3#3 ++ nzimm.extractLsb' 9 1 ++ 2#5 ++ nzimm.extractLsb' 4 1 ++ nzimm.extractLsb' 6 1
      ++ nzimm.extractLsb' 7 2 ++ nzimm.extractLsb' 5 1 ++ 1#2)
  | .cLui rd nzimm => ofHalf (encCI 3#3 nzimm rd 1#2)
  | .cSrli rd shamt => ofHalf (encCA 0b100000#6 rd shamt)
  | .cSrai rd shamt => ofHalf (encCA 0b100001#6 rd shamt)
  | .cAndi rd imm => ofHalf (4#3 ++ imm.extractLsb' 5 1 ++ 2#2 ++ rd ++ imm.extractLsb' 0 5 ++ 1#2)
  | .cSub rd rs2 => ofHalf (encCA 0b100011#6 rd (0#2 ++ rs2))
  | .cXor rd rs2 => ofHalf (encCA 0b100011#6 rd (1#2 ++ rs2))
  | .cOr rd rs2 => ofHalf (encCA 0b100011#6 rd (2#2 ++ rs2))
  | .cAnd rd rs2 => ofHalf (encCA 0b100011#6 rd (3#2 ++ rs2))
  | .cJ off => ofHalf (encCJ 5#3 off)
  | .cBeqz rs1 off => ofHalf (encCB 6#3 rs1 off)
  | .cBnez rs1 off => ofHalf (encCB 7#3 rs1 off)
  | .cSlli rd shamt => ofHalf (encCI 0#3 (0#1 ++ shamt) rd 2#2)
  | .cLwsp rd uimm =>
    ofHalf (2#3 ++ uimm.extractLsb' 5 1 ++ rd ++ uimm.extractLsb' 2 3 ++ uimm.extractLsb' 6 2 ++ 2#2)
  | .cJr rs1 => ofHalf (encCR 8#4 rs1 0#5)
  | .cMv rd rs2 => ofHalf (encCR 8#4 rd rs2)
  | .cEbreak => ofHalf 0x9002#16
  | .cJalr rs1 => ofHalf (encCR 9#4 rs1 0#5)
  | .cAdd rd rs2 => ofHalf (encCR 9#4 rd rs2)
  | .cSwsp rs2 uimm => ofHalf (6#3 ++ uimm.extractLsb' 2 4 ++ uimm.extractLsb' 6 2 ++ rs2 ++ 2#2)

/-! ### The expansion of a compressed instruction -/

/-- The register x[8 + r'] of a 3-bit field (R431). -/
def wideReg (r : CReg) : Reg := 1#2 ++ r

/-- `Expand` of 48_compressed.md R430: the 32-bit instruction that defines a compressed one; a 32-bit instruction is
its own. The meanings of the compressed instructions are written without it, so that "executed by the rule of that 32-bit
instruction" can be stated of them. -/
def expand : Instr → Instr
  | .cAddi4spn rd nzuimm => .addi (wideReg rd) 2#5 (nzuimm.setWidth 12)
  | .cLw rd rs1 uimm => .lw (wideReg rd) (wideReg rs1) (uimm.setWidth 12)
  | .cSw rs2 rs1 uimm => .sw (wideReg rs2) (wideReg rs1) (uimm.setWidth 12)
  | .cNop imm => .addi 0#5 0#5 (imm.signExtend 12)
  | .cAddi rd imm => .addi rd rd (imm.signExtend 12)
  | .cJal off => .jal 1#5 (off.signExtend 21)
  | .cLi rd imm => .addi rd 0#5 (imm.signExtend 12)
  | .cAddi16sp nzimm => .addi 2#5 2#5 (nzimm.signExtend 12)
  | .cLui rd nzimm => .lui rd (nzimm.signExtend 20)
  | .cSrli rd shamt => .srli (wideReg rd) (wideReg rd) shamt
  | .cSrai rd shamt => .srai (wideReg rd) (wideReg rd) shamt
  | .cAndi rd imm => .andi (wideReg rd) (wideReg rd) (imm.signExtend 12)
  | .cSub rd rs2 => .sub (wideReg rd) (wideReg rd) (wideReg rs2)
  | .cXor rd rs2 => .xor (wideReg rd) (wideReg rd) (wideReg rs2)
  | .cOr rd rs2 => .or (wideReg rd) (wideReg rd) (wideReg rs2)
  | .cAnd rd rs2 => .and (wideReg rd) (wideReg rd) (wideReg rs2)
  | .cJ off => .jal 0#5 (off.signExtend 21)
  | .cBeqz rs1 off => .beq (wideReg rs1) 0#5 (off.signExtend 13)
  | .cBnez rs1 off => .bne (wideReg rs1) 0#5 (off.signExtend 13)
  | .cSlli rd shamt => .slli rd rd shamt
  | .cLwsp rd uimm => .lw rd 2#5 (uimm.setWidth 12)
  | .cJr rs1 => .jalr 0#5 rs1 0#12
  | .cMv rd rs2 => .add rd 0#5 rs2
  | .cEbreak => .ebreak
  | .cJalr rs1 => .jalr 1#5 rs1 0#12
  | .cAdd rd rs2 => .add rd rd rs2
  | .cSwsp rs2 uimm => .sw rs2 2#5 (uimm.setWidth 12)
  | i => i

end Sys2Proof
end

