-- ==== Sys2Proof/Machine/Fetch.lean ====
section
/-! DEFINITION. Fetching an instruction (40_step.md R231, R232) and what a step sets before it executes one (R230, R235).
The same translation says where a program's next instruction must stand in memory. -/

namespace Sys2Proof.Machine

/-- What a fetch brings: `raw`, the undecoded bits (a halfword is zero-extended), and the length in bytes (R231). -/
structure Fetched where
  raw : Word
  len : Word
deriving DecidableEq, Repr

/-- A 16-bit unit (R231). -/
def shortUnit (w : Word) : Fetched := { raw := w &&& 0x0000FFFF#32, len := 2#32 }

/-- `Fetch()` (R231): one 4-byte read when pc[1] = 0, else two 2-byte reads, the second only if the first announces a
32-bit instruction. -/
def fetch (s : State) : Res Fetched :=
  if s.pc.getLsbD 1 then
    (memRead s.pc .half .X s).bind fun lo s =>
      if isLong lo then
        (memRead (s.pc + 2#32) .half .X s).bind fun hi s => .ok { raw := lo ||| (hi <<< 16), len := 4#32 } s
      else .ok (shortUnit lo) s
  else
    (memRead s.pc .word .X s).bind fun w s =>
      if isLong w then .ok { raw := w, len := 4#32 } s else .ok (shortUnit w) s

/-- The step begins: no trap so far (R240). -/
def beginStep (s : State) : State := { s with result := .noTrap }

/-- `next_pc <- pc + len`, and `raw` is kept for an illegal-instruction trap value (R230, R234, R235). -/
def arm (f : Fetched) (s : State) : State := { s with nextPc := s.pc + f.len, rawInst := f.raw }

/-- Store a halfword, little-endian, at the physical address va is fetched from; nothing where the fetch would raise. -/
def placeHalf (va : Word) (h : Half) (s : State) : State :=
  match translate va .X s with
  | .ok pa _ => { s with mem := s.mem.writeLE pa.toNat 2 (h.setWidth 32) }
  | _ => s

/-- Store a table row's word where the next step fetches it: the halfword at pc, then the halfword at pc + 2. -/
def placeWord (nbits w : Nat) (s : State) : State :=
  let raw := tableWord nbits w
  placeHalf (s.pc + 2#32) (raw.extractLsb' 16 16) (placeHalf s.pc (raw.extractLsb' 0 16) s)

end Sys2Proof.Machine
end

