-- ==== Sys2Proof/Machine/Step.lean ====
section
/-! DEFINITION. `Step()` (40_step.md R230): fetch, decompress, decode, execute, and on success commit. -/

namespace Sys2Proof.Machine

/-- The part of a step after a successful fetch: an illegal encoding raises illegal-instruction with the undecoded bits
(R234); an instruction is executed with `next_pc` and `raw` set, and retired (R230, R236, R237). -/
def executeFetched (f : Fetched) (s : State) : Host.Outcome State Fault Refusal :=
  match decode f.raw with
  | .error _ => .next (takeException .illegal f.raw s)
  | .ok i =>
    match exec i (arm f s) with
    | .next s' => .next (retire i s')
    | .fault r => .fault r
    | .refused r => .refused r

/-- One step of the core (R230). -/
def step (s : State) : Host.Outcome State Fault Refusal :=
  match fetch (beginStep s) with
  | .ok f s => executeFetched f s
  | .raise e tval s => .next (takeException e tval s)
  | .refuse r => .refused r

/-- The state with a table row's word stored where the next step fetches its instruction (log entry 15). -/
def State.withFetchWord (s : State) (nbits w : Nat) : State := placeWord nbits w s

end Sys2Proof.Machine
end

