-- ==== Sys2Proof/Machine/Table.lean ====
section
/-! DEFINITION. The opcode table of spec/opcode_table.json as data (30_encoding.md R201, 48_compressed.md R432 to R459): for
each row its mnemonic, mask, match and constraint. The decoder is not written from it; that the two agree is a
statement. -/

namespace Sys2Proof

/-- A row: the bits `raw` are the instruction of the row when `raw & mask = pattern`, and `raw & m` is not v for each
pair (m, v) of `excluded`, the row's `constraint`. -/
structure TableRow where
  name     : String
  mask     : Word
  pattern  : Word
  excluded : List (Word × Word)
deriving DecidableEq, Repr

/-- Do the bits match the row (R201)? -/
def TableRow.fits (r : TableRow) (raw : Word) : Bool :=
  raw &&& r.mask == r.pattern && r.excluded.all fun c => raw &&& c.1 != c.2

/-- The rows LUI to SW. -/
def tableMain : List TableRow :=
  [⟨"LUI", 0x0000007F#32, 0x00000037#32, []⟩,
   ⟨"AUIPC", 0x0000007F#32, 0x00000017#32, []⟩,
   ⟨"JAL", 0x0000007F#32, 0x0000006F#32, []⟩,
   ⟨"JALR", 0x0000707F#32, 0x00000067#32, []⟩,
   ⟨"BEQ", 0x0000707F#32, 0x00000063#32, []⟩,
   ⟨"BNE", 0x0000707F#32, 0x00001063#32, []⟩,
   ⟨"BLT", 0x0000707F#32, 0x00004063#32, []⟩,
   ⟨"BGE", 0x0000707F#32, 0x00005063#32, []⟩,
   ⟨"BLTU", 0x0000707F#32, 0x00006063#32, []⟩,
   ⟨"BGEU", 0x0000707F#32, 0x00007063#32, []⟩,
   ⟨"LB", 0x0000707F#32, 0x00000003#32, []⟩,
   ⟨"LH", 0x0000707F#32, 0x00001003#32, []⟩,
   ⟨"LW", 0x0000707F#32, 0x00002003#32, []⟩,
   ⟨"LBU", 0x0000707F#32, 0x00004003#32, []⟩,
   ⟨"LHU", 0x0000707F#32, 0x00005003#32, []⟩,
   ⟨"SB", 0x0000707F#32, 0x00000023#32, []⟩,
   ⟨"SH", 0x0000707F#32, 0x00001023#32, []⟩,
   ⟨"SW", 0x0000707F#32, 0x00002023#32, []⟩]

/-- The rows ADDI to REMU. -/
def tableAlu : List TableRow :=
  [⟨"ADDI", 0x0000707F#32, 0x00000013#32, []⟩,
   ⟨"SLTI", 0x0000707F#32, 0x00002013#32, []⟩,
   ⟨"SLTIU", 0x0000707F#32, 0x00003013#32, []⟩,
   ⟨"XORI", 0x0000707F#32, 0x00004013#32, []⟩,
   ⟨"ORI", 0x0000707F#32, 0x00006013#32, []⟩,
   ⟨"ANDI", 0x0000707F#32, 0x00007013#32, []⟩,
   ⟨"SLLI", 0xFE00707F#32, 0x00001013#32, []⟩,
   ⟨"SRLI", 0xFE00707F#32, 0x00005013#32, []⟩,
   ⟨"SRAI", 0xFE00707F#32, 0x40005013#32, []⟩,
   ⟨"ADD", 0xFE00707F#32, 0x00000033#32, []⟩,
   ⟨"SUB", 0xFE00707F#32, 0x40000033#32, []⟩,
   ⟨"SLL", 0xFE00707F#32, 0x00001033#32, []⟩,
   ⟨"SLT", 0xFE00707F#32, 0x00002033#32, []⟩,
   ⟨"SLTU", 0xFE00707F#32, 0x00003033#32, []⟩,
   ⟨"XOR", 0xFE00707F#32, 0x00004033#32, []⟩,
   ⟨"SRL", 0xFE00707F#32, 0x00005033#32, []⟩,
   ⟨"SRA", 0xFE00707F#32, 0x40005033#32, []⟩,
   ⟨"OR", 0xFE00707F#32, 0x00006033#32, []⟩,
   ⟨"AND", 0xFE00707F#32, 0x00007033#32, []⟩,
   ⟨"MUL", 0xFE00707F#32, 0x02000033#32, []⟩,
   ⟨"MULH", 0xFE00707F#32, 0x02001033#32, []⟩,
   ⟨"MULHSU", 0xFE00707F#32, 0x02002033#32, []⟩,
   ⟨"MULHU", 0xFE00707F#32, 0x02003033#32, []⟩,
   ⟨"DIV", 0xFE00707F#32, 0x02004033#32, []⟩,
   ⟨"DIVU", 0xFE00707F#32, 0x02005033#32, []⟩,
   ⟨"REM", 0xFE00707F#32, 0x02006033#32, []⟩,
   ⟨"REMU", 0xFE00707F#32, 0x02007033#32, []⟩]

/-- The rows FENCE to CSRRCI. -/
def tableSystem : List TableRow :=
  [⟨"FENCE", 0x0000707F#32, 0x0000000F#32, []⟩,
   ⟨"FENCE.I", 0x0000707F#32, 0x0000100F#32, []⟩,
   ⟨"ECALL", 0xFFFFFFFF#32, 0x00000073#32, []⟩,
   ⟨"EBREAK", 0xFFFFFFFF#32, 0x00100073#32, []⟩,
   ⟨"SRET", 0xFFFFFFFF#32, 0x10200073#32, []⟩,
   ⟨"MRET", 0xFFFFFFFF#32, 0x30200073#32, []⟩,
   ⟨"WFI", 0xFFFFFFFF#32, 0x10500073#32, []⟩,
   ⟨"SFENCE.VMA", 0xFE007FFF#32, 0x12000073#32, []⟩,
   ⟨"CSRRW", 0x0000707F#32, 0x00001073#32, []⟩,
   ⟨"CSRRS", 0x0000707F#32, 0x00002073#32, []⟩,
   ⟨"CSRRC", 0x0000707F#32, 0x00003073#32, []⟩,
   ⟨"CSRRWI", 0x0000707F#32, 0x00005073#32, []⟩,
   ⟨"CSRRSI", 0x0000707F#32, 0x00006073#32, []⟩,
   ⟨"CSRRCI", 0x0000707F#32, 0x00007073#32, []⟩]

/-- The rows LR.W to AMOMAXU.W. -/
def tableAtomic : List TableRow :=
  [⟨"LR.W", 0xF9F0707F#32, 0x1000202F#32, []⟩,
   ⟨"SC.W", 0xF800707F#32, 0x1800202F#32, []⟩,
   ⟨"AMOSWAP.W", 0xF800707F#32, 0x0800202F#32, []⟩,
   ⟨"AMOADD.W", 0xF800707F#32, 0x0000202F#32, []⟩,
   ⟨"AMOXOR.W", 0xF800707F#32, 0x2000202F#32, []⟩,
   ⟨"AMOAND.W", 0xF800707F#32, 0x6000202F#32, []⟩,
   ⟨"AMOOR.W", 0xF800707F#32, 0x4000202F#32, []⟩,
   ⟨"AMOMIN.W", 0xF800707F#32, 0x8000202F#32, []⟩,
   ⟨"AMOMAX.W", 0xF800707F#32, 0xA000202F#32, []⟩,
   ⟨"AMOMINU.W", 0xF800707F#32, 0xC000202F#32, []⟩,
   ⟨"AMOMAXU.W", 0xF800707F#32, 0xE000202F#32, []⟩]

/-- The rows the compressed rows. -/
def tableShort : List TableRow :=
  [⟨"C.ADDI4SPN", 0x0000E003#32, 0x00000000#32, [(0x1FE0#32, 0x0#32)]⟩,
   ⟨"C.LW", 0x0000E003#32, 0x00004000#32, []⟩,
   ⟨"C.SW", 0x0000E003#32, 0x0000C000#32, []⟩,
   ⟨"C.NOP", 0x0000EF83#32, 0x00000001#32, []⟩,
   ⟨"C.ADDI", 0x0000E003#32, 0x00000001#32, [(0xF80#32, 0x0#32)]⟩,
   ⟨"C.JAL", 0x0000E003#32, 0x00002001#32, []⟩,
   ⟨"C.LI", 0x0000E003#32, 0x00004001#32, []⟩,
   ⟨"C.ADDI16SP", 0x0000EF83#32, 0x00006101#32, [(0x107C#32, 0x0#32)]⟩,
   ⟨"C.LUI", 0x0000E003#32, 0x00006001#32, [(0xF80#32, 0x100#32), (0x107C#32, 0x0#32)]⟩,
   ⟨"C.SRLI", 0x0000FC03#32, 0x00008001#32, []⟩,
   ⟨"C.SRAI", 0x0000FC03#32, 0x00008401#32, []⟩,
   ⟨"C.ANDI", 0x0000EC03#32, 0x00008801#32, []⟩,
   ⟨"C.SUB", 0x0000FC63#32, 0x00008C01#32, []⟩,
   ⟨"C.XOR", 0x0000FC63#32, 0x00008C21#32, []⟩,
   ⟨"C.OR", 0x0000FC63#32, 0x00008C41#32, []⟩,
   ⟨"C.AND", 0x0000FC63#32, 0x00008C61#32, []⟩,
   ⟨"C.J", 0x0000E003#32, 0x0000A001#32, []⟩,
   ⟨"C.BEQZ", 0x0000E003#32, 0x0000C001#32, []⟩,
   ⟨"C.BNEZ", 0x0000E003#32, 0x0000E001#32, []⟩,
   ⟨"C.SLLI", 0x0000F003#32, 0x00000002#32, []⟩,
   ⟨"C.LWSP", 0x0000E003#32, 0x00004002#32, [(0xF80#32, 0x0#32)]⟩,
   ⟨"C.JR", 0x0000F07F#32, 0x00008002#32, [(0xF80#32, 0x0#32)]⟩,
   ⟨"C.MV", 0x0000F003#32, 0x00008002#32, [(0x7C#32, 0x0#32)]⟩,
   ⟨"C.EBREAK", 0x0000FFFF#32, 0x00009002#32, []⟩,
   ⟨"C.JALR", 0x0000F07F#32, 0x00009002#32, [(0xF80#32, 0x0#32)]⟩,
   ⟨"C.ADD", 0x0000F003#32, 0x00009002#32, [(0x7C#32, 0x0#32)]⟩,
   ⟨"C.SWSP", 0x0000E003#32, 0x0000C002#32, []⟩]

/-- The whole table. -/
def opcodeTable : List TableRow := tableMain ++ tableAlu ++ tableSystem ++ tableAtomic ++ tableShort

/-- The mnemonic of an instruction, as the table spells it. -/
def mnemonic : Instr → String
  | .lui _ _ => "LUI"
  | .auipc _ _ => "AUIPC"
  | .jal _ _ => "JAL"
  | .jalr _ _ _ => "JALR"
  | .beq _ _ _ => "BEQ"
  | .bne _ _ _ => "BNE"
  | .blt _ _ _ => "BLT"
  | .bge _ _ _ => "BGE"
  | .bltu _ _ _ => "BLTU"
  | .bgeu _ _ _ => "BGEU"
  | .lb _ _ _ => "LB"
  | .lh _ _ _ => "LH"
  | .lw _ _ _ => "LW"
  | .lbu _ _ _ => "LBU"
  | .lhu _ _ _ => "LHU"
  | .sb _ _ _ => "SB"
  | .sh _ _ _ => "SH"
  | .sw _ _ _ => "SW"
  | .addi _ _ _ => "ADDI"
  | .slti _ _ _ => "SLTI"
  | .sltiu _ _ _ => "SLTIU"
  | .xori _ _ _ => "XORI"
  | .ori _ _ _ => "ORI"
  | .andi _ _ _ => "ANDI"
  | .slli _ _ _ => "SLLI"
  | .srli _ _ _ => "SRLI"
  | .srai _ _ _ => "SRAI"
  | .add _ _ _ => "ADD"
  | .sub _ _ _ => "SUB"
  | .sll _ _ _ => "SLL"
  | .slt _ _ _ => "SLT"
  | .sltu _ _ _ => "SLTU"
  | .xor _ _ _ => "XOR"
  | .srl _ _ _ => "SRL"
  | .sra _ _ _ => "SRA"
  | .or _ _ _ => "OR"
  | .and _ _ _ => "AND"
  | .mul _ _ _ => "MUL"
  | .mulh _ _ _ => "MULH"
  | .mulhsu _ _ _ => "MULHSU"
  | .mulhu _ _ _ => "MULHU"
  | .div _ _ _ => "DIV"
  | .divu _ _ _ => "DIVU"
  | .rem _ _ _ => "REM"
  | .remu _ _ _ => "REMU"
  | .fence _ _ _ _ _ => "FENCE"
  | .fenceI _ _ _ => "FENCE.I"
  | .ecall => "ECALL"
  | .ebreak => "EBREAK"
  | .sret => "SRET"
  | .mret => "MRET"
  | .wfi => "WFI"
  | .sfenceVma _ _ => "SFENCE.VMA"
  | .csrrw _ _ _ => "CSRRW"
  | .csrrs _ _ _ => "CSRRS"
  | .csrrc _ _ _ => "CSRRC"
  | .csrrwi _ _ _ => "CSRRWI"
  | .csrrsi _ _ _ => "CSRRSI"
  | .csrrci _ _ _ => "CSRRCI"
  | .lrW _ _ _ _ => "LR.W"
  | .scW _ _ _ _ _ => "SC.W"
  | .amoSwapW _ _ _ _ _ => "AMOSWAP.W"
  | .amoAddW _ _ _ _ _ => "AMOADD.W"
  | .amoXorW _ _ _ _ _ => "AMOXOR.W"
  | .amoAndW _ _ _ _ _ => "AMOAND.W"
  | .amoOrW _ _ _ _ _ => "AMOOR.W"
  | .amoMinW _ _ _ _ _ => "AMOMIN.W"
  | .amoMaxW _ _ _ _ _ => "AMOMAX.W"
  | .amoMinuW _ _ _ _ _ => "AMOMINU.W"
  | .amoMaxuW _ _ _ _ _ => "AMOMAXU.W"
  | .cAddi4spn _ _ => "C.ADDI4SPN"
  | .cLw _ _ _ => "C.LW"
  | .cSw _ _ _ => "C.SW"
  | .cNop _ => "C.NOP"
  | .cAddi _ _ => "C.ADDI"
  | .cJal _ => "C.JAL"
  | .cLi _ _ => "C.LI"
  | .cAddi16sp _ => "C.ADDI16SP"
  | .cLui _ _ => "C.LUI"
  | .cSrli _ _ => "C.SRLI"
  | .cSrai _ _ => "C.SRAI"
  | .cAndi _ _ => "C.ANDI"
  | .cSub _ _ => "C.SUB"
  | .cXor _ _ => "C.XOR"
  | .cOr _ _ => "C.OR"
  | .cAnd _ _ => "C.AND"
  | .cJ _ => "C.J"
  | .cBeqz _ _ => "C.BEQZ"
  | .cBnez _ _ => "C.BNEZ"
  | .cSlli _ _ => "C.SLLI"
  | .cLwsp _ _ => "C.LWSP"
  | .cJr _ => "C.JR"
  | .cMv _ _ => "C.MV"
  | .cEbreak => "C.EBREAK"
  | .cJalr _ => "C.JALR"
  | .cAdd _ _ => "C.ADD"
  | .cSwsp _ _ => "C.SWSP"

end Sys2Proof
end

