-- ==== Sys2Proof/Safety.lean ====
section
/-! DEFINITION. The terms in which claims are made: the invariants a state of this core keeps, the states the host's
discipline reaches (70_reset_and_hazards.md R556), and what an instruction leaves alone. -/

namespace Sys2Proof.Machine

/-! ### Invariants -/

/-- Bits that no reset, trap, instruction or injection ever sets in the words of the CSR file, by the write masks of
10_state.md R40 and the reset value of `misa` (R43, R70). -/
abbrev MasksLegal (c : Csrs) : Prop :=
  c.mstatus &&& ~~~0x001E19AA#32 = 0#32 ∧ c.medeleg &&& ~~~0x0000B3FF#32 = 0#32
    ∧ c.mideleg &&& ~~~0x00000222#32 = 0#32 ∧ c.mie &&& ~~~0x00000AAA#32 = 0#32
    ∧ c.mip &&& ~~~0x00000AAA#32 = 0#32 ∧ c.mtvec.getLsbD 1 = false ∧ c.stvec.getLsbD 1 = false
    ∧ c.misa = Config.misaValue

/-- "Privilege is always one of the three defined levels": MPP holds 0, 1 or 3 (10_state.md R26, R61). -/
abbrev PreviousPrivilegeLegal (s : State) : Prop := statusMPP s.csr.mstatus ≠ 2#2

/-- Every program counter is even (10_state.md R25, R53): `pc`, `next_pc`, `mepc`, `sepc`. -/
abbrev PcsEven (s : State) : Prop :=
  s.pc.getLsbD 0 = false ∧ s.nextPc.getLsbD 0 = false ∧ s.csr.mepc.getLsbD 0 = false ∧ s.csr.sepc.getLsbD 0 = false

/-- What holds of a valid TLB entry: the fields the walk's result gave it, and an address-space id that is current unless
the entry is global (21_mmu_tlb.md R167, R183). -/
abbrev EntryLegal (asid : BitVec 9) (level : PageLevel) (e : TlbEntry) : Prop :=
  e.valid = true → e.level = level ∧ e.ppn = ptePpn e.pte ∧ e.global = pteG e.pte ∧ (e.global = false → e.asid = asid)

/-- The three tables and `asid_cache` (10_state.md R30; 21_mmu_tlb.md R165, R167, R183). -/
abbrev TlbLegal (s : State) : Prop :=
  s.asidCache = satpAsid s.csr.satp
    ∧ (∀ (i : Fin Config.itlbSets) (j : Fin Config.itlbWays), EntryLegal s.asidCache .basePage s.itlb[i][j])
    ∧ (∀ (i : Fin Config.dtlbSets) (j : Fin Config.dtlbWays), EntryLegal s.asidCache .basePage s.dtlb[i][j])
    ∧ (∀ j : Fin Config.stlbEntries, EntryLegal s.asidCache .superPage s.stlb[j] ∧
        (s.stlb[j].valid = true → ptePpn0 s.stlb[j].pte = 0#10))

/-- The invariant of this core. -/
abbrev Legal (s : State) : Prop :=
  s.mem.wf = true ∧ MasksLegal s.csr ∧ PreviousPrivilegeLegal s ∧ PcsEven s ∧ TlbLegal s

/-! ### The host's discipline (70_reset_and_hazards.md R540 to R543, R556) -/

/-- Between `Reset` and the first `Step` the core is booting: the only time `PreSeed` is allowed (R543). -/
inductive Phase where
  | booting
  | running
deriving DecidableEq, Repr

/-- A state of some machine of this kind, whatever its bus, in a run of steps and host moves: `Reset` at any point
between steps, `PreSeed` before the first step, injections and changes of memory between steps. -/
inductive Run : Phase → State → Prop where
  | powerOn (bus : BusMap) : Run .booting { State.reset with bus := bus }
  | reset {p : Phase} {s : State} : Run p s → Run .booting s.resetCore
  | preSeed {s : State} : Run .booting s → Run .booting s.preSeed
  | inject {p : Phase} {s : State} (sw timer ext : Bool) : Run p s → Run p (s.injectInterrupts sw timer ext)
  | write {p : Phase} {s : State} (a : Nat) (b : Byte) : Run p s → Run p (s.hostWrite a b)
  | step {p : Phase} {s t : State} : Run p s → Machine.step s = .next t → Run .running t

/-- A state that steps and host moves reach. -/
abbrev Reachable (s : State) : Prop := ∃ p, Run p s

/-! ### What an instruction leaves alone -/

/-- Every general register is as before. -/
abbrev SameRegs (s t : State) : Prop := ∀ r, t.reg r = s.reg r

/-- Every general register but one is as before. -/
abbrev SameRegsBut (rd : Reg) (s t : State) : Prop := ∀ r, r ≠ rd → t.reg r = s.reg r

/-- `x[rd] <- v` and no other register: x0 keeps reading 0 (10_state.md R20, R21). -/
abbrev RegWritten (rd : Reg) (v : Word) (s t : State) : Prop :=
  t.reg rd = (if rd = 0#5 then 0#32 else v) ∧ SameRegsBut rd s t

/-- Every byte of memory is as before. -/
abbrev SameBytes (s t : State) : Prop := ∀ a, t.mem.read a = s.mem.read a

/-- Every byte outside the n bytes from an address is as before. -/
abbrev SameBytesBut (a n : Nat) (s t : State) : Prop := ∀ b, b < a ∨ a + n ≤ b → t.mem.read b = s.mem.read b

/-- The n bytes from an address hold the low n bytes of v, the lowest first (20_memory.md R104), and every other byte is
as before. -/
abbrev BytesStored (a n : Nat) (v : Word) (s t : State) : Prop :=
  (∀ k, k < n → t.mem.read (a + k) = (v >>> (8 * k)).setWidth 8) ∧ SameBytesBut a n s t

/-- The three TLB tables are as before. -/
abbrev SameTlb (s t : State) : Prop := t.itlb = s.itlb ∧ t.dtlb = s.dtlb ∧ t.stlb = s.stlb

/-- The three TLB tables are as before, the bus is the same, and no oracle has been called. -/
abbrev SameTlbBus (s t : State) : Prop := SameTlb s t ∧ t.bus = s.bus ∧ t.busCalls = s.busCalls

/-- `pc`, `priv`, every CSR, `asid_cache`, and the model's own two fields are as before. -/
abbrev SameControl (s t : State) : Prop :=
  t.pc = s.pc ∧ t.priv = s.priv ∧ t.csr = s.csr ∧ t.asidCache = s.asidCache ∧ t.result = s.result
    ∧ t.rawInst = s.rawInst

/-- The whole effect is one register write. -/
abbrev OnlyReg (rd : Reg) (v : Word) (s t : State) : Prop :=
  RegWritten rd v s t ∧ t.nextPc = s.nextPc ∧ t.resv = s.resv ∧ SameControl s t ∧ SameTlbBus s t ∧ SameBytes s t

/-- The whole effect is a new `next_pc`. -/
abbrev OnlyNextPc (target : Word) (s t : State) : Prop :=
  t.nextPc = target ∧ SameRegs s t ∧ t.resv = s.resv ∧ SameControl s t ∧ SameTlbBus s t ∧ SameBytes s t

/-- The whole effect is a jump with a link. -/
abbrev OnlyJump (rd : Reg) (link target : Word) (s t : State) : Prop :=
  t.nextPc = target ∧ RegWritten rd link s t ∧ t.resv = s.resv ∧ SameControl s t ∧ SameTlbBus s t ∧ SameBytes s t

/-- The whole effect of a load whose last bus call leaves the state u. -/
abbrev OnlyLoad (rd : Reg) (v : Word) (s u t : State) : Prop :=
  RegWritten rd v s t ∧ t.nextPc = s.nextPc ∧ t.resv = s.resv ∧ SameControl s t ∧ SameTlbBus u t ∧ SameBytes s t

/-- What a write of n bytes at a physical address did to memory: the bytes are stored where memory answers, and every byte
is as before where an oracle does. -/
abbrev Stored (bus : BusMap) (pa : PAddr) (n : Nat) (v : Word) (s t : State) : Prop :=
  if servedBy bus pa.toNat n = some .oracle then SameBytes s t else BytesStored pa.toNat n v s t

/-- The whole effect of a store of n bytes at one physical address, whose translation leaves the state u. -/
abbrev OnlyStore (pa : PAddr) (n : Nat) (v : Word) (s u t : State) : Prop :=
  Stored s.bus pa n v s t ∧ SameRegs s t ∧ t.nextPc = s.nextPc ∧ t.resv = s.resv ∧ SameControl s t
    ∧ SameTlbBus (busAfter u (.write v) pa n) t

/-- The whole effect of an AMO on the word at one physical address, whose read leaves the state u (45_atomics.md R354). -/
abbrev OnlyAmo (rd : Reg) (pa : PAddr) (old new : Word) (s u t : State) : Prop :=
  RegWritten rd old s t ∧ Stored s.bus pa 4 new s t ∧ t.nextPc = s.nextPc ∧ t.resv = s.resv ∧ SameControl s t
    ∧ SameTlbBus (busAfter u (.write new) pa 4) t

/-- The step from s is the instruction i, executed on the state u that the fetch left, with `next_pc` and `raw` set, and
retired (40_step.md R230, R235). -/
abbrev StepRuns (s u : State) (i : Instr) : Prop :=
  step s = match exec i { u with nextPc := s.pc + i.len, rawInst := encode i } with
    | .next t => .next (retire i t)
    | .fault r => .fault r
    | .refused r => .refused r

/-- The whole effect of a CSR instruction: the old value in `rd`, and what the CSR write that leads from s to w did to the
CSR words, the TLB and `asid_cache` (46_system_csr.md R381, 10_state.md R36, R37); no oracle is called. -/
abbrev OnlyCsr (rd : Reg) (old : Word) (s w t : State) : Prop :=
  RegWritten rd old s t ∧ t.csr = w.csr ∧ SameTlb w t ∧ t.asidCache = w.asidCache ∧ t.bus = s.bus
    ∧ t.busCalls = s.busCalls ∧ t.pc = s.pc ∧ t.nextPc = s.nextPc ∧ t.priv = s.priv ∧ t.resv = s.resv ∧ t.result = s.result ∧ t.rawInst = s.rawInst ∧ SameBytes s t

/-- Interrupt cause i is pending, enabled and takeable, by the table of 60_exceptions.md R516. -/
abbrev CanTake (s : State) (i : Nat) : Prop :=
  s.csr.mip.getLsbD i = true ∧ s.csr.mie.getLsbD i = true ∧ (s.priv = .M → statusMIE s.csr.mstatus = true)
    ∧ (s.priv = .S → s.csr.mideleg.getLsbD i = true → statusSIE s.csr.mstatus = true)

/-- It is the one to take: none above it is takeable (60_exceptions.md R514, R515). -/
abbrev HighestTakeable (s : State) (i : Nat) : Prop := i < 12 ∧ CanTake s i ∧ ∀ j, j < 12 → i < j → ¬ CanTake s j

/-- The state that bus reads may leave: s but for the number of oracle calls. -/
abbrev BusOnly (s t : State) : Prop := t = { s with busCalls := t.busCalls }

/-- The state that translations and reads may leave: s but for the three tables and the number of oracle calls
(21_mmu_tlb.md R157, R178, 40_step.md R241). -/
abbrev TranslationOnly (s t : State) : Prop :=
  t = { s with itlb := t.itlb, dtlb := t.dtlb, stlb := t.stlb, busCalls := t.busCalls }

/-- The state that a memory access may leave: what a translation may change, and memory (40_step.md R241). -/
abbrev AccessOnly (s t : State) : Prop :=
  t = { s with mem := t.mem, itlb := t.itlb, dtlb := t.dtlb, stlb := t.stlb, busCalls := t.busCalls }

/-! ### Values -/

/-- The byte, halfword and word at an address, each byte written out (20_memory.md R104). -/
def halfAt (m : Memory) (a : Nat) : Half := m.read (a + 1) ++ m.read a

/-- The little-endian word at an address. -/
def wordAt (m : Memory) (a : Nat) : Word := m.read (a + 3) ++ m.read (a + 2) ++ m.read (a + 1) ++ m.read a

/-- The value of n bytes from an address, zero-extended: a byte, a halfword or a word. -/
def bytesAt (m : Memory) (a n : Nat) : Word :=
  match n with
  | 1 => (m.read a).setWidth 32
  | 2 => (halfAt m a).setWidth 32
  | _ => wordAt m a

/-- The value that an accepted bus read of n bytes brings: the bytes of memory, or what the oracle of the region says. -/
def readData (s : State) (pa : PAddr) (n : Nat) : Word :=
  if servedBy s.bus pa.toNat n = some .oracle then lowBytes n (Config.busOracle s.busCalls .read pa n).data
  else bytesAt s.mem pa.toNat n

/-- Every byte of a range is dispatched to memory that holds the whole range. -/
abbrev RamCovers (m : BusMap) (a n : Nat) : Prop :=
  ∀ k, k < n → (regionAt m (a + k)).any (fun r => r.kind != .oracle && decide (a + n ≤ r.base + r.size)) = true

/-- No device answers: every region of the bus is memory. -/
abbrev RamOnly (m : BusMap) : Prop := ∀ r ∈ m, r.kind ≠ .oracle

/-- The 64-bit cycle counter (10_state.md R27). -/
def Csrs.cycle (c : Csrs) : BitVec 64 := c.cycleHi ++ c.cycleLo

/-- The register an instruction may write, x0 standing for none (30_encoding.md R192, 48_compressed.md R432 to R459). -/
def destOf : Instr → Reg
  | .lui rd _ | .auipc rd _ | .jal rd _ | .jalr rd _ _ => rd
  | .beq _ _ _ | .bne _ _ _ | .blt _ _ _ | .bge _ _ _ | .bltu _ _ _ | .bgeu _ _ _ => 0#5
  | .lb rd _ _ | .lh rd _ _ | .lw rd _ _ | .lbu rd _ _ | .lhu rd _ _ => rd
  | .sb _ _ _ | .sh _ _ _ | .sw _ _ _ => 0#5
  | .addi rd _ _ | .slti rd _ _ | .sltiu rd _ _ | .xori rd _ _ | .ori rd _ _ | .andi rd _ _ => rd
  | .slli rd _ _ | .srli rd _ _ | .srai rd _ _ => rd
  | .add rd _ _ | .sub rd _ _ | .sll rd _ _ | .slt rd _ _ | .sltu rd _ _ | .xor rd _ _ => rd
  | .srl rd _ _ | .sra rd _ _ | .or rd _ _ | .and rd _ _ => rd
  | .mul rd _ _ | .mulh rd _ _ | .mulhsu rd _ _ | .mulhu rd _ _ => rd
  | .div rd _ _ | .divu rd _ _ | .rem rd _ _ | .remu rd _ _ => rd
  | .fence _ _ _ _ _ | .fenceI _ _ _ | .ecall | .ebreak | .sret | .mret | .wfi | .sfenceVma _ _ => 0#5
  | .csrrw rd _ _ | .csrrs rd _ _ | .csrrc rd _ _ | .csrrwi rd _ _ | .csrrsi rd _ _ | .csrrci rd _ _ => rd
  | .lrW _ _ rd _ | .scW _ _ rd _ _ => rd
  | .amoSwapW _ _ rd _ _ | .amoAddW _ _ rd _ _ | .amoXorW _ _ rd _ _ | .amoAndW _ _ rd _ _ | .amoOrW _ _ rd _ _ => rd
  | .amoMinW _ _ rd _ _ | .amoMaxW _ _ rd _ _ | .amoMinuW _ _ rd _ _ | .amoMaxuW _ _ rd _ _ => rd
  | .cAddi4spn rd _ | .cLw rd _ _ => cReg rd
  | .cSw _ _ _ | .cNop _ => 0#5
  | .cAddi rd _ | .cLi rd _ | .cLui rd _ | .cSlli rd _ | .cLwsp rd _ | .cMv rd _ | .cAdd rd _ => rd
  | .cJal _ | .cJalr _ => 1#5
  | .cAddi16sp _ => 2#5
  | .cSrli rd _ | .cSrai rd _ | .cAndi rd _ | .cSub rd _ | .cXor rd _ | .cOr rd _ | .cAnd rd _ => cReg rd
  | .cJ _ | .cBeqz _ _ | .cBnez _ _ | .cJr _ | .cEbreak | .cSwsp _ _ => 0#5

/-- The instruction stores to memory (20_memory.md R112). -/
def writesMemory : Instr → Bool
  | .sb _ _ _ | .sh _ _ _ | .sw _ _ _ | .cSw _ _ _ | .cSwsp _ _ | .scW _ _ _ _ _ => true
  | .amoSwapW _ _ _ _ _ | .amoAddW _ _ _ _ _ | .amoXorW _ _ _ _ _ | .amoAndW _ _ _ _ _ | .amoOrW _ _ _ _ _ => true
  | .amoMinW _ _ _ _ _ | .amoMaxW _ _ _ _ _ | .amoMinuW _ _ _ _ _ | .amoMaxuW _ _ _ _ _ => true
  | _ => false

/-- The data access of a load or a store: width, bus operation and effective address (41_loads_stores.md R260,
48_compressed.md R433, R434, R453, R459). -/
def accessOf (s : State) : Instr → Option (Width × BusOp × Word)
  | .lb _ rs1 imm | .lbu _ rs1 imm => some (.byte, .read, s.reg rs1 + imm.signExtend 32)
  | .lh _ rs1 imm | .lhu _ rs1 imm => some (.half, .read, s.reg rs1 + imm.signExtend 32)
  | .lw _ rs1 imm => some (.word, .read, s.reg rs1 + imm.signExtend 32)
  | .sb rs2 rs1 imm => some (.byte, .write (s.reg rs2), s.reg rs1 + imm.signExtend 32)
  | .sh rs2 rs1 imm => some (.half, .write (s.reg rs2), s.reg rs1 + imm.signExtend 32)
  | .sw rs2 rs1 imm => some (.word, .write (s.reg rs2), s.reg rs1 + imm.signExtend 32)
  | .cLw _ rs1 uimm => some (.word, .read, s.reg (wideReg rs1) + uimm.setWidth 32)
  | .cSw rs2 rs1 uimm => some (.word, .write (s.reg (wideReg rs2)), s.reg (wideReg rs1) + uimm.setWidth 32)
  | .cLwsp _ uimm => some (.word, .read, s.reg 2#5 + uimm.setWidth 32)
  | .cSwsp rs2 uimm => some (.word, .write (s.reg rs2), s.reg 2#5 + uimm.setWidth 32)
  | _ => none

/-- The access kind of a data access: a load reads, a store writes (41_loads_stores.md R260). -/
def opKind : BusOp → Access
  | .read => .R
  | .write _ => .W

/-- The cause of a rejected data access: misalignment 4 or 6, every other status 5 or 7 (20_memory.md R103). -/
def rejectCause (kind : Access) (status : BusStatus) : Nat :=
  match kind, status with
  | .W, .align => 6
  | .W, _ => 7
  | _, .align => 4
  | _, _ => 5

/-- A CSR instruction (46_system_csr.md R380). -/
def isCsrInstr : Instr → Bool
  | .csrrw _ _ _ | .csrrs _ _ _ | .csrrc _ _ _ | .csrrwi _ _ _ | .csrrsi _ _ _ | .csrrci _ _ _ => true
  | _ => false

/-- The permission check of 21_mmu_tlb.md R170 fails. -/
abbrev PermissionDenied (pte : Word) (kind : Access) (eff : Priv) (mstatus : Word) : Prop :=
  (eff = .U ∧ pteU pte = false) ∨ (eff = .S ∧ pteU pte = true ∧ statusSUM mstatus = false)
    ∨ (kind = .R ∧ pteR pte = false ∧ (statusMXR mstatus = false ∨ pteX pte = false))
    ∨ (kind = .W ∧ pteW pte = false) ∨ (kind = .X ∧ pteX pte = false)
    ∨ pteA pte = false ∨ (kind = .W ∧ pteD pte = false)

/-- A data access of w bytes at a lies inside one page and the bus accepts it at the address it translates to
(20_memory.md R105, R107): the translation leaves the state u. -/
abbrev Reaches (a : Word) (w : Width) (op : BusOp) (s : State) (pa : PAddr) (u : State) : Prop :=
  (pageOffset a).toNat + w.bytes ≤ 4096 ∧ translate a (opKind op) s = .ok pa u
    ∧ (busAnswer u op pa w.bytes).status = .ok

/-- Way k is the one an insertion overwrites: the first invalid way or, with none, the first of the lowest rank
(21_mmu_tlb.md R166). -/
abbrev IsVictim {n : Nat} (ways : Vector TlbEntry n) (k : Fin n) : Prop :=
  (ways[k].valid = false ∧ ∀ j < k, ways[j].valid = true)
    ∨ ((∀ j : Fin n, ways[j].valid = true) ∧ (∀ j : Fin n, ways[k].lru ≤ ways[j].lru)
        ∧ ∀ j < k, ways[k].lru < ways[j].lru)

/-- A set after the insertion of an entry: the victim is overwritten and has the highest rank, every other way loses one
positive rank (21_mmu_tlb.md R166, R168). -/
abbrev Inserted {n : Nat} (old new : Vector TlbEntry n) (e : TlbEntry) : Prop :=
  ∃ k : Fin n, IsVictim old k
    ∧ ∀ i : Fin n, new[i] = if i = k then { e with lru := n - 1 } else { old[i] with lru := old[i].lru - 1 }

/-- What the page tables in memory say now agrees with every entry that could serve an address: a walk for that address
ends at the same leaf, with no oracle call ("a TLB entry is valid only while consistent with the last completed page walk",
21_mmu_tlb.md R183). -/
def TlbCoherent (s : State) : Prop :=
  ∀ (va : Word) (kind : Access),
    (∀ j : Fin Config.stlbEntries, superMatch s.asidCache va s.stlb[j] = true →
        walk va kind s = .ok (s.stlb[j].pte, .superPage) s)
      ∧ (∀ j : Fin Config.itlbWays, baseMatch va s.itlb[setIndex Config.itlbSets va][j] = true →
        walk va kind s = .ok (s.itlb[setIndex Config.itlbSets va][j].pte, .basePage) s)
      ∧ (∀ j : Fin Config.dtlbWays, baseMatch va s.dtlb[setIndex Config.dtlbSets va][j] = true →
        walk va kind s = .ok (s.dtlb[setIndex Config.dtlbSets va][j].pte, .basePage) s)

/-- The state in which an operation ends. -/
abbrev Leaves (r : Res PAddr) (t : State) : Prop := (∃ pa, r = .ok pa t) ∨ ∃ e v, r = .raise e v t

/-- Two translations answer the same address, or the same exception with the same trap value. -/
abbrev SameAnswer (r q : Res PAddr) : Prop :=
  (∀ pa, (∃ t, r = .ok pa t) ↔ ∃ t, q = .ok pa t)
    ∧ ∀ e v, (∃ t, r = .raise e v t) ↔ ∃ t, q = .raise e v t

/-- LR.W or SC.W, the only two that touch the reservation (45_atomics.md R364). -/
def touchesReservation : Instr → Bool
  | .lrW _ _ _ _ | .scW _ _ _ _ _ => true
  | _ => false

end Sys2Proof.Machine
end

