-- ==== Sys2Proof/Certificates/Slice0/Obligations.lean ====
section
/-! DEFINITION. The statements for the provers. Where one rests on a value or a behaviour that is the model's choice, its
docstring names the log entry. A premise s.mem.wf or one of the abbreviations of Safety.lean is an invariant, stated as
one of its own. -/

open Sys2Proof Sys2Proof.Machine

/-! ### Encoding -/

/-- Decoding an encoded well-formed instruction gives it back, for every instruction and every operand
(30_encoding.md sections 2 to 4 and 6, 48_compressed.md). -/
def Obligations.DecodeOfEncode : Prop := ∀ i : Instr, i.wf = true → decode (encode i) = .ok i

/-- What the decoder yields is well-formed, and encoding it gives the bits back: all of them for a 32-bit word, the
halfword for a compressed one. -/
def Obligations.EncodeOfDecode : Prop :=
  ∀ (raw : Word) (i : Instr), decode raw = .ok i →
    i.wf = true ∧ encode i = (if i.compressed then raw &&& 0x0000FFFF#32 else raw)

/-- 30_encoding.md R201, for every row of spec/opcode_table.json: bits decode to an instruction exactly if they fit a row,
and then to the row's own instruction. -/
def Obligations.DecodeAgreesWithOpcodeTable : Prop :=
  ∀ raw : Word,
    (∀ i, decode raw = .ok i → ∃ r ∈ opcodeTable, r.fits raw = true ∧ r.name = mnemonic i)
      ∧ (∀ r ∈ opcodeTable, r.fits raw = true → ∃ i, decode raw = .ok i ∧ mnemonic i = r.name)

/-- Words written out in the spec's own examples decode to the instruction they stand for. -/
def Obligations.ExampleWordsDecode : Prop :=
  decode 0x00028303#32 = .ok (.lb 6#5 5#5 0#12)
    ∧ decode 0xFE62AE23#32 = .ok (.sw 6#5 5#5 0xFFC#12)
    ∧ decode 0xFE029CE3#32 = .ok (.bne 5#5 0#5 0x1FF8#13)
    ∧ decode 0x010000EF#32 = .ok (.jal 1#5 16#21)
    ∧ decode 0x4042D313#32 = .ok (.srai 6#5 5#5 4#5)
    ∧ decode 0x0262E3B3#32 = .ok (.rem 7#5 5#5 6#5)
    ∧ decode 0x186523AF#32 = .ok (.scW false false 7#5 6#5 10#5)
    ∧ decode 0x34029373#32 = .ok (.csrrw 6#5 0x340#12 5#5)
    ∧ decode 0x30200073#32 = .ok .mret
    ∧ decode 0x123452B7#32 = .ok (.lui 5#5 0x12345#20)
    ∧ decode 0x00003FFD#32 = .ok (.cJal 0xFFE#12)
    ∧ decode 0x0000DF86#32 = .ok (.cSwsp 1#5 252#8)

/-! ### The step -/

/-- What a step from an even pc does when it does not reach an instruction. A failed fetch takes the page or access fault
it raised, with the address of the failing part as trap value (40_step.md R232): what the translation of the first part
raises, or cause 1 where the bus answers UNMAPPED or INVALID to it, and the same of the second part, which is fetched only
at a pc that is no multiple of 4 and after a first half that announces a 32-bit instruction (R231). Cause 0 comes only
where an oracle answers `ALIGN` to an aligned access, which memory never does (10_state.md R25, R232). Bits that are no
instruction take illegal-instruction with those bits as trap value (R234, 30_encoding.md R202). In each the saved pc is the
instruction's, and only the TLB and the count of oracle calls have changed: that an oracle leaves the rest is the model's
choice (log entry 20; 20_memory.md R120). -/
def Obligations.FetchFaultAndIllegalBitsTrap : Prop :=
  (∀ s e v u, s.pc.getLsbD 0 = false → fetch (beginStep s) = .raise e v u →
      step s = .next (trapEntry false e.code v s.pc u) ∧ (v = s.pc ∨ v = s.pc + 2#32)
        ∧ (e = .instrPage ∨ e = .instrAccess ∨ e = .instrMisaligned) ∧ (RamOnly s.bus → e ≠ .instrMisaligned)
        ∧ TranslationOnly (beginStep s) u)
    ∧ (∀ s : State, s.pc.getLsbD 0 = false →
      let traps : Nat → Word → State → Prop := fun cause tval u => step s = .next (trapEntry false cause tval s.pc u)
      let cause : BusStatus → Nat := fun status => if status = .align then 0 else 1
      let n := if s.pc.getLsbD 1 = true then 2 else 4
      (∀ e x u, translate s.pc .X (beginStep s) = .raise e x u →
          traps e.code s.pc u ∧ (e = .instrPage ∨ e = .instrAccess))
        ∧ (∀ pa u, translate s.pc .X (beginStep s) = .ok pa u →
          let mid := busAfter u .read pa n
          let status := (busAnswer u .read pa n).status
          (status ≠ .ok → traps (cause status) s.pc mid)
            ∧ (status = .ok → n = 2 → (readData u pa 2).extractLsb' 0 2 = 3#2 →
              (∀ e x w, translate (s.pc + 2#32) .X mid = .raise e x w →
                  traps e.code (s.pc + 2#32) w ∧ (e = .instrPage ∨ e = .instrAccess))
                ∧ (∀ qa w, translate (s.pc + 2#32) .X mid = .ok qa w → (busAnswer w .read qa 2).status ≠ .ok →
                  traps (cause (busAnswer w .read qa 2).status) (s.pc + 2#32) (busAfter w .read qa 2)))))
    ∧ (∀ s f u x, fetch (beginStep s) = .ok f u → decode f.raw = .error x →
      step s = .next (trapEntry false 2 f.raw s.pc u) ∧ TranslationOnly (beginStep s) u)

/-- A step runs the instruction it fetched: `next_pc` and `raw` are set (40_step.md R235), the instruction is executed,
and, unless it raised or is WFI, the commit follows: pc, the cycle counter, the interrupt check, in that order (R230,
R237). -/
def Obligations.StepRunsFetchedInstruction : Prop :=
  ∀ s f u i, fetch (beginStep s) = .ok f u → decode f.raw = .ok i →
    (∀ t, exec i { u with nextPc := s.pc + f.len, rawInst := f.raw } = .next t →
        step s = .next (if t.result.isTrap = true ∨ i = .wfi then t
          else checkInterrupts { t with pc := t.nextPc, csr := t.csr.tick }))
      ∧ (∀ r, exec i { u with nextPc := s.pc + f.len, rawInst := f.raw } = .refused r → step s = .refused r)

/-- The same from the bytes at an even pc. What a fetch brings, whatever the bus (40_step.md R231): its accesses are of kind
X; at a multiple of 4 it is one read of 4 bytes, else one of 2 bytes and, only where that announces a 32-bit instruction, a
second of 2 bytes at pc + 2 modulo 2^32, translated on its own. Then, for memory: where the encoding of a well-formed
instruction stands at the physical addresses that the fetch is translated to, the step is exec of that instruction,
retired; and the same where fetches are not translated, at pc itself. A compressed instruction at a pc that is no multiple
of 4 needs the two bytes of its own only, so that it may stand in the last halfword of a region, or at 0xFFFFFFFE. -/
def Obligations.StepRunsInstructionAtPc : Prop :=
  (∀ s : State, s.pc.getLsbD 0 = false →
      (s.pc.getLsbD 1 = false → ∀ pa u, translate s.pc .X s = .ok pa u → (busAnswer u .read pa 4).status = .ok →
        let w := readData u pa 4
        fetch s = .ok (if w.extractLsb' 0 2 = 3#2 then { raw := w, len := 4#32 }
          else { raw := (w.setWidth 16).setWidth 32, len := 2#32 }) (busAfter u .read pa 4))
        ∧ (s.pc.getLsbD 1 = true → ∀ pa u, translate s.pc .X s = .ok pa u → (busAnswer u .read pa 2).status = .ok →
          let lo := readData u pa 2
          let mid := busAfter u .read pa 2
          (lo.extractLsb' 0 2 ≠ 3#2 → fetch s = .ok { raw := lo, len := 2#32 } mid)
            ∧ (lo.extractLsb' 0 2 = 3#2 → ∀ qa v, translate (s.pc + 2#32) .X mid = .ok qa v →
              (busAnswer v .read qa 2).status = .ok →
              fetch s = .ok { raw := (readData v qa 2).setWidth 16 ++ lo.setWidth 16, len := 4#32 }
                (busAfter v .read qa 2))))
    ∧ (∀ (s : State) (i : Instr), i.wf = true → s.pc.getLsbD 0 = false →
      ∀ pa u, translate s.pc .X (beginStep s) = .ok pa u →
        (s.pc.getLsbD 1 = false → RamCovers s.bus pa.toNat 4 →
          (if i.compressed then (halfAt s.mem pa.toNat).setWidth 32 = encode i else wordAt s.mem pa.toNat = encode i) →
          StepRuns s u i)
          ∧ (s.pc.getLsbD 1 = true → RamCovers s.bus pa.toNat 2 →
            (i.compressed = true → (halfAt s.mem pa.toNat).setWidth 32 = encode i → StepRuns s u i)
              ∧ (i.compressed = false → ∀ qa v, translate (s.pc + 2#32) .X u = .ok qa v → RamCovers s.bus qa.toNat 2 →
                halfAt s.mem qa.toNat ++ halfAt s.mem pa.toNat = encode i → StepRuns s v i)))
    ∧ (∀ (s : State) (i : Instr), i.wf = true → s.pc.getLsbD 0 = false →
      (satpMode s.csr.satp = false ∨ s.priv = .M) →
        (s.pc.getLsbD 1 = false → RamCovers s.bus s.pc.toNat 4 →
          (if i.compressed then (halfAt s.mem s.pc.toNat).setWidth 32 = encode i
            else wordAt s.mem s.pc.toNat = encode i) → StepRuns s (beginStep s) i)
          ∧ (s.pc.getLsbD 1 = true → RamCovers s.bus s.pc.toNat 2 →
            (i.compressed = true → (halfAt s.mem s.pc.toNat).setWidth 32 = encode i → StepRuns s (beginStep s) i)
              ∧ (i.compressed = false → RamCovers s.bus (s.pc + 2#32).toNat 2 →
                halfAt s.mem (s.pc + 2#32).toNat ++ halfAt s.mem s.pc.toNat = encode i → StepRuns s (beginStep s) i)))

/-! ### Invariants -/

/-- Every step keeps memory in its canonical form, so that equal memories are equal data (the model's own form, log entry
6). -/
def Obligations.StepKeepsMemoryCanonical : Prop :=
  ∀ s t : State, s.mem.wf = true → step s = .next t → t.mem.wf = true

/-- Every step keeps the control state legal: the four program counters even (10_state.md R25, R53), MPP one of 0, 1, 3
(R61), every bit outside the write masks of R40 as it reads, and `misa` constant (R43). -/
def Obligations.StepKeepsControlStateLegal : Prop :=
  ∀ s t : State, MasksLegal s.csr → PreviousPrivilegeLegal s → PcsEven s → step s = .next t →
    MasksLegal t.csr ∧ PreviousPrivilegeLegal t ∧ PcsEven t

/-- Every step keeps the TLB legal: `asid_cache` is `satp.ASID`, every valid entry that is not global carries it
(21_mmu_tlb.md R183), and the fields of a valid entry are those its page-table entry gives (R165, R167). -/
def Obligations.StepKeepsTlbLegal : Prop := ∀ s t : State, TlbLegal s → step s = .next t → TlbLegal t

/-- The reset state meets the invariant. The clause about memory rests on the model's own form of it (log entry 6), the one
about an even pc on the reset vector's number (log entry 2), and the one about an even `next_pc` on the value the model
gives a register that 10_state.md R70 leaves unspecified (log entry 3). -/
def Obligations.ResetIsLegal : Prop := Legal State.reset

/-- Every state that steps and host moves reach, whatever the bus, under the host's discipline meets the invariant; a
`Reset` may come between any two steps. The cases of power-on and of `Reset` rest on log entries 2, 3 and 6, as
ResetIsLegal does. -/
def Obligations.ReachableStatesAreLegal : Prop := ∀ s : State, Reachable s → Legal s

/-- The state right after `Reset`, at power-on and of a running machine, as 10_state.md R70 and 70_reset_and_hazards.md
R540, R541 give it; memory and the bus are not touched. That `Reset` of a running machine is the move `State.resetCore`
(log entry 18), and that it leaves the count of oracle calls, the model's own field (log entry 20), is the model's choice;
the sizes of the TLB tables are log entry 5. The value of x1 to x31 is the model's choice (log entry 1), the
number of the reset vector the spec's default (log entry 2); of `next_pc` and of invalid TLB entries nothing is said. -/
def Obligations.ResetState : Prop :=
  (∀ r : State, (r = State.reset ∨ ∃ s : State, r = s.resetCore) →
      r.pc = Config.resetVector ∧ r.priv = .M
        ∧ (∀ n row, csrRow n = some row → csrRead n r = if n = 0x301#12 then 0x40141105#32 else 0#32)
        ∧ r.csr.cycle = 0#64 ∧ r.asidCache = 0#9 ∧ r.resv = none
        ∧ (∀ (i : Fin Config.itlbSets) (j : Fin Config.itlbWays), r.itlb[i][j].valid = false)
        ∧ (∀ (i : Fin Config.dtlbSets) (j : Fin Config.dtlbWays), r.dtlb[i][j].valid = false)
        ∧ (∀ j : Fin Config.stlbEntries, r.stlb[j].valid = false)
        ∧ r.reg 0#5 = 0#32 ∧ (∀ q : Reg, q ≠ 0#5 → r.reg q = Config.resetGpr))
    ∧ (∀ s : State, SameBytes s s.resetCore ∧ s.resetCore.bus = s.bus ∧ s.resetCore.busCalls = s.busCalls)

/-- No state is stuck (60_exceptions.md R506): from an even pc every step answers a next state, but for a word load or
store whose address has page offset 0xFFD or 0xFFF, which is refused (20_memory.md R108, 70_reset_and_hazards.md R554), by
its address alone (log entry 19). That a misaligned superpage leaf is no second refusal is log entry 10. -/
def Obligations.StepAnswersOrIsThreeBytePart : Prop :=
  ∀ s : State, s.pc.getLsbD 0 = false →
    (∃ t, step s = .next t)
      ∨ (step s = .refused .threeBytePart ∧ ∃ f u i op a, fetch (beginStep s) = .ok f u ∧ decode f.raw = .ok i
          ∧ accessOf u i = some (.word, op, a) ∧ (pageOffset a = 0xFFD#12 ∨ pageOffset a = 0xFFF#12))

/-- An instruction is refused exactly if it is a word load or store at page offset 0xFFD or 0xFFF (20_memory.md R108). That
the address alone decides, also where the translation of the low part would fault, is log entry 19; that this is the only
refusal rests on log entry 10. -/
def Obligations.RefusedIffThreeBytePart : Prop :=
  ∀ (i : Instr) (s : State) (r : Refusal), exec i s = .refused r ↔
    r = .threeBytePart ∧ ∃ op a, accessOf s i = some (.word, op, a) ∧ (pageOffset a = 0xFFD#12 ∨ pageOffset a = 0xFFF#12)

/-! ### What instructions leave alone -/

/-- Every general register but the instruction's destination is as before, for all 97 instructions, whether the
instruction completes or takes an exception. -/
def Obligations.OnlyDestinationRegisterChanges : Prop :=
  ∀ (i : Instr) (s t : State), exec i s = .next t → ∀ r, r ≠ destOf i → t.reg r = s.reg r

/-- Every byte of memory is as before an instruction that is no store, no SC.W and no AMO: a load, a page-table walk and a
trap write no memory (21_mmu_tlb.md R157). That a read which an oracle answers changes none either is the model's choice
(log entry 20; 20_memory.md R120). -/
def Obligations.OnlyStoresChangeMemory : Prop :=
  ∀ (i : Instr) (s t : State), writesMemory i = false → exec i s = .next t → ∀ a, t.mem.read a = s.mem.read a

/-- 45_atomics.md R364: the reservation is set only by an LR.W that completes, to its address, and cleared only by an SC.W
that passes its alignment check; nothing else in a step touches it, nor does an injection; it is invalid at reset. -/
def Obligations.ReservationChangesOnlyByLrSc : Prop :=
  (∀ (i : Instr) (s t : State), exec i s = .next t →
      t.resv = s.resv
        ∨ (∃ aq rl rd rs1, i = .lrW aq rl rd rs1 ∧ (s.reg rs1).extractLsb' 0 2 = 0#2 ∧ t.resv = some (s.reg rs1)
            ∧ t.result = s.result)
        ∨ (∃ aq rl rd rs2 rs1, i = .scW aq rl rd rs2 rs1 ∧ (s.reg rs1).extractLsb' 0 2 = 0#2 ∧ t.resv = none))
    ∧ (∀ s t : State, step s = .next t → t.resv = s.resv ∨
        ∃ f u i, fetch (beginStep s) = .ok f u ∧ decode f.raw = .ok i ∧ touchesReservation i = true)
    ∧ (∀ (s : State) (sw timer ext : Bool), (s.injectInterrupts sw timer ext).resv = s.resv)
    ∧ State.reset.resv = none

/-- Exceptions are precise (40_step.md R241, R500): an instruction that raises leaves every general register and the cycle
counter, and the saved pc is its own. -/
def Obligations.ExceptionsArePrecise : Prop :=
  ∀ (i : Instr) (s t : State), i ≠ .wfi → s.result.isTrap = false → exec i s = .next t → t.result.isTrap = true →
    SameRegs s t ∧ t.csr.cycle = s.csr.cycle
      ∧ ((t.priv = .M ∧ t.csr.mepc = s.pc) ∨ (t.priv = .S ∧ t.csr.sepc = s.pc))
      ∧ ∃ e : Exc, t.result = .trap (BitVec.ofNat 32 e.code)

/-- 10_state.md R38: outside trap entry, only the CSR instructions, MRET, SRET and the commit (which WFI makes itself)
write CSR words; and in U-mode no instruction but WFI does so, nor leaves U-mode, unless it traps (60_exceptions.md
R520). -/
def Obligations.UserModeAndPlainInstructionsKeepCsrs : Prop :=
  (∀ (i : Instr) (s t : State), s.result.isTrap = false → exec i s = .next t → t.result.isTrap = false →
      isCsrInstr i = false → i ≠ .mret → i ≠ .sret → i ≠ .wfi → t.csr = s.csr ∧ t.priv = s.priv)
    ∧ (∀ (i : Instr) (s t : State), s.priv = .U → s.result.isTrap = false → exec i s = .next t →
      t.result.isTrap = false → i ≠ .wfi → t.csr = s.csr ∧ t.priv = .U ∧ t.asidCache = s.asidCache)

/-- Privilege rises only through trap entry (60_exceptions.md R520), and then control is at the handler address of the new
level's vector (R504), for the cause that the step's result names (every cause is below 16, R480, R481). -/
def Obligations.PrivilegeRisesOnlyIntoHandler : Prop :=
  ∀ s t : State, step s = .next t → s.priv.below t.priv = true →
    ∃ isInt cause, cause < 16 ∧ t.result = .trap (causeWord isInt cause)
      ∧ t.pc = trapVector (if t.priv = .M then t.csr.mtvec else t.csr.stvec) isInt cause

/-! ### Traps -/

/-- Trap entry, field by field (60_exceptions.md R502, R503, R504). -/
def Obligations.TrapEntryWrites : Prop :=
  ∀ (isInt : Bool) (cause : Nat) (tval epc : Word) (s : State), cause < 16 →
    let t := trapEntry isInt cause tval epc s
    let deleg := if isInt then s.csr.mideleg else s.csr.medeleg
    let code : Word := BitVec.ofNat 32 (if isInt then 2 ^ 31 + cause else cause)
    let target : Word → Word := fun tvec =>
      BitVec.ofNat 32 (tvec.toNat / 4 * 4 + if tvec.getLsbD 0 ∧ isInt then 4 * cause else 0)
    t.result = .trap code
      ∧ (s.priv ≠ .M ∧ deleg.getLsbD cause = true →
          t.priv = .S ∧ statusSPIE t.csr.mstatus = statusSIE s.csr.mstatus
            ∧ (statusSPP t.csr.mstatus = true ↔ s.priv = .S) ∧ statusSIE t.csr.mstatus = false
            ∧ (∀ k, k ≠ 1 → k ≠ 5 → k ≠ 8 → t.csr.mstatus.getLsbD k = s.csr.mstatus.getLsbD k)
            ∧ t.csr.sepc = epc ∧ t.csr.scause = code ∧ t.csr.stval = tval ∧ t.pc = target s.csr.stvec)
      ∧ (s.priv = .M ∨ deleg.getLsbD cause = false →
          t.priv = .M ∧ statusMPIE t.csr.mstatus = statusMIE s.csr.mstatus
            ∧ statusMPP t.csr.mstatus = s.priv.bits ∧ statusMIE t.csr.mstatus = false
            ∧ (∀ k, k ≠ 3 → k ≠ 7 → k ≠ 11 → k ≠ 12 → t.csr.mstatus.getLsbD k = s.csr.mstatus.getLsbD k)
            ∧ t.csr.mepc = epc ∧ t.csr.mcause = code ∧ t.csr.mtval = tval ∧ t.pc = target s.csr.mtvec)

/-- What trap entry leaves alone (60_exceptions.md R505). -/
def Obligations.TrapEntryLeavesAlone : Prop :=
  ∀ (isInt : Bool) (cause : Nat) (tval epc : Word) (s : State),
    let t := trapEntry isInt cause tval epc s
    SameRegs s t ∧ t.csr.mscratch = s.csr.mscratch ∧ t.csr.sscratch = s.csr.sscratch
      ∧ (t.priv = .S → t.csr.mepc = s.csr.mepc ∧ t.csr.mcause = s.csr.mcause ∧ t.csr.mtval = s.csr.mtval)
      ∧ (t.priv = .M → t.csr.sepc = s.csr.sepc ∧ t.csr.scause = s.csr.scause ∧ t.csr.stval = s.csr.stval)
      ∧ (∀ k, k ≠ 1 → k ≠ 3 → k ≠ 5 → k ≠ 7 → k ≠ 8 → k ≠ 11 → k ≠ 12 →
          t.csr.mstatus.getLsbD k = s.csr.mstatus.getLsbD k)
      ∧ (t.priv = .S → ∀ k, (k = 3 ∨ k = 7 ∨ k = 11 ∨ k = 12) → t.csr.mstatus.getLsbD k = s.csr.mstatus.getLsbD k)
      ∧ (t.priv = .M → ∀ k, (k = 1 ∨ k = 5 ∨ k = 8) → t.csr.mstatus.getLsbD k = s.csr.mstatus.getLsbD k)
      ∧ t.csr.mip = s.csr.mip ∧ t.csr.mie = s.csr.mie ∧ t.csr.medeleg = s.csr.medeleg
      ∧ t.csr.mideleg = s.csr.mideleg ∧ t.csr.mtvec = s.csr.mtvec ∧ t.csr.stvec = s.csr.stvec
      ∧ t.csr.misa = s.csr.misa ∧ t.csr.mcounteren = s.csr.mcounteren ∧ t.csr.scounteren = s.csr.scounteren
      ∧ t.resv = s.resv ∧ SameTlbBus s t ∧ t.asidCache = s.asidCache ∧ t.csr.satp = s.csr.satp
      ∧ t.csr.cycle = s.csr.cycle ∧ SameBytes s t

/-- ECALL takes the environment call of the current privilege, EBREAK and C.EBREAK the breakpoint, each with trap value 0
and its own address saved (46_system_csr.md R390, R391, 48_compressed.md R456). -/
def Obligations.EnvironmentCallAndBreak : Prop :=
  ∀ s : State,
    exec .ecall s = .next (trapEntry false (match s.priv with | .U => 8 | .S => 9 | .M => 11) 0#32 s.pc s)
      ∧ exec .ebreak s = .next (trapEntry false 3 0#32 s.pc s)
      ∧ exec .cEbreak s = .next (trapEntry false 3 0#32 s.pc s)

/-- The interrupt check (60_exceptions.md R514 to R516): the highest takeable cause is taken, with the committed pc saved
and trap value 0; where none is takeable nothing happens. -/
def Obligations.InterruptCheckTakesHighest : Prop :=
  ∀ s : State,
    (∀ i, HighestTakeable s i → checkInterrupts s = trapEntry true i 0#32 s.pc s)
      ∧ ((∀ i, i < 12 → ¬ CanTake s i) → checkInterrupts s = s)

/-- The host's injection overwrites `mip` bits 3, 7 and 11 and nothing else (60_exceptions.md R512; the bit places are the
spec's default, log entry 11). -/
def Obligations.InjectionOverwritesThreeBits : Prop :=
  ∀ (s : State) (sw timer ext : Bool),
    let t := s.injectInterrupts sw timer ext
    t.csr.mip.getLsbD 3 = sw ∧ t.csr.mip.getLsbD 7 = timer ∧ t.csr.mip.getLsbD 11 = ext
      ∧ (∀ k, k ≠ 3 → k ≠ 7 → k ≠ 11 → t.csr.mip.getLsbD k = s.csr.mip.getLsbD k)
      ∧ t = { s with csr := { s.csr with mip := t.csr.mip } }

/-- MRET in M and SRET in S or M (46_system_csr.md R388, R389): the previous privilege and interrupt enable come back, and
`next_pc` is the saved pc; every other bit and everything else is as before. -/
def Obligations.TrapReturns : Prop :=
  (∀ s : State, s.priv = .M → PreviousPrivilegeLegal s → ∃ t, exec .mret s = .next t
      ∧ t.priv.bits = statusMPP s.csr.mstatus ∧ t.nextPc = s.csr.mepc
      ∧ statusMIE t.csr.mstatus = statusMPIE s.csr.mstatus ∧ statusMPIE t.csr.mstatus = true
      ∧ statusMPP t.csr.mstatus = 0#2
      ∧ statusMPRV t.csr.mstatus = (if t.priv = .U then false else statusMPRV s.csr.mstatus)
      ∧ (∀ k, k ≠ 3 → k ≠ 7 → k ≠ 11 → k ≠ 12 → k ≠ 17 → t.csr.mstatus.getLsbD k = s.csr.mstatus.getLsbD k)
      ∧ t = { s with csr := { s.csr with mstatus := t.csr.mstatus }, priv := t.priv, nextPc := t.nextPc })
    ∧ (∀ s : State, s.priv ≠ .U → ∃ t, exec .sret s = .next t
      ∧ t.priv = (if statusSPP s.csr.mstatus = true then .S else .U) ∧ t.nextPc = s.csr.sepc
      ∧ statusSIE t.csr.mstatus = statusSPIE s.csr.mstatus ∧ statusSPIE t.csr.mstatus = true
      ∧ statusSPP t.csr.mstatus = false
      ∧ statusMPRV t.csr.mstatus = (if t.priv = .U then false else statusMPRV s.csr.mstatus)
      ∧ (∀ k, k ≠ 1 → k ≠ 5 → k ≠ 8 → k ≠ 17 → t.csr.mstatus.getLsbD k = s.csr.mstatus.getLsbD k)
      ∧ t = { s with csr := { s.csr with mstatus := t.csr.mstatus }, priv := t.priv, nextPc := t.nextPc })

/-- The privileged forms in a mode that may not run them raise illegal-instruction with the undecoded bits as trap value
(46_system_csr.md R388, R389, R394; 60_exceptions.md R520). -/
def Obligations.PrivilegedFormsTrapBelow : Prop :=
  ∀ s : State,
    (s.priv ≠ .M → exec .mret s = .next (trapEntry false 2 s.rawInst s.pc s))
      ∧ (s.priv = .U → exec .sret s = .next (trapEntry false 2 s.rawInst s.pc s))
      ∧ (∀ rs1 rs2, (s.priv = .U ∨ s.priv = .S ∧ statusTVM s.csr.mstatus = true) →
          exec (.sfenceVma rs1 rs2) s = .next (trapEntry false 2 s.rawInst s.pc s))

/-- WFI (46_system_csr.md R392): it commits, takes the highest takeable interrupt if there is one, and else answers idle
exactly if no cause is pending and enabled. -/
def Obligations.WaitForInterrupt : Prop :=
  ∀ s : State,
    let c := { s with pc := s.nextPc, csr := s.csr.tick }
    (∀ i, HighestTakeable c i → exec .wfi s = .next (trapEntry true i 0#32 s.nextPc c))
      ∧ ((∀ i, i < 12 → ¬ CanTake c i) → exec .wfi s =
          .next { c with result := if s.csr.mip &&& s.csr.mie = 0#32 then .idle else .noTrap })

/-- The cycle counter advances by 1, modulo 2^64, in a step whose instruction commits and by 0 in a step that raises an
exception (10_state.md R27, 70_reset_and_hazards.md R560), CSR instructions apart, which may write it. -/
def Obligations.CycleCounterCountsCommits : Prop :=
  ∀ s t : State, step s = .next t →
    (∃ f u i, fetch (beginStep s) = .ok f u ∧ decode f.raw = .ok i ∧ isCsrInstr i = true)
      ∨ (t.csr.cycle = s.csr.cycle + 1#64 ∧ ∀ e : Exc, t.result ≠ .trap (BitVec.ofNat 32 e.code))
      ∨ (t.csr.cycle = s.csr.cycle ∧ ∃ e : Exc, t.result = .trap (BitVec.ofNat 32 e.code))

/-! ### CSRs -/

/-- The access gate (10_state.md R33, R34, R60) over the mapped numbers, which are the 30 rows of R40 and not the 32 that
92_eei_decisions.md D7 counts (log entry 14). -/
def Obligations.CsrGate : Prop :=
  ∀ (n : CsrNum) (isWrite : Bool) (s : State), csrCheck n isWrite s = false ↔
    (n ∉ [0x100#12, 0x104#12, 0x105#12, 0x106#12, 0x140#12, 0x141#12, 0x142#12, 0x143#12, 0x144#12, 0x180#12,
        0x300#12, 0x301#12, 0x302#12, 0x303#12, 0x304#12, 0x305#12, 0x306#12, 0x340#12, 0x341#12, 0x342#12, 0x343#12,
        0x344#12, 0xB00#12, 0xB80#12, 0xC00#12, 0xC80#12, 0xF11#12, 0xF12#12, 0xF13#12, 0xF14#12])
      ∨ s.priv.bits < n.extractLsb' 8 2
      ∨ (isWrite = true ∧ n.extractLsb' 10 2 = 3#2)
      ∨ (isWrite = false ∧ n = 0x180#12 ∧ s.priv = .S ∧ statusTVM s.csr.mstatus = true)

/-- The six CSR instructions where the gate lets them (46_system_csr.md R381 to R387): the old value goes to `rd`, the new
one is written; the set and clear forms with register number 0 or immediate 0 write nothing. -/
def Obligations.CsrInstructionResults : Prop :=
  ∀ (rd : Reg) (n : CsrNum) (s : State), csrCheck n false s = true →
    (csrCheck n true s = true →
      (∀ rs1, ∃ t, exec (.csrrw rd n rs1) s = .next t ∧ OnlyCsr rd (csrRead n s) s (csrWrite n (s.reg rs1) s) t)
        ∧ (∀ rs1, rs1 ≠ 0#5 → ∃ t, exec (.csrrs rd n rs1) s = .next t
            ∧ OnlyCsr rd (csrRead n s) s (csrWrite n (csrRead n s ||| s.reg rs1) s) t)
        ∧ (∀ rs1, rs1 ≠ 0#5 → ∃ t, exec (.csrrc rd n rs1) s = .next t
            ∧ OnlyCsr rd (csrRead n s) s (csrWrite n (csrRead n s &&& ~~~ s.reg rs1) s) t)
        ∧ (∀ uimm : BitVec 5, ∃ t, exec (.csrrwi rd n uimm) s = .next t
            ∧ OnlyCsr rd (csrRead n s) s (csrWrite n (uimm.setWidth 32) s) t)
        ∧ (∀ uimm : BitVec 5, uimm ≠ 0#5 → ∃ t, exec (.csrrsi rd n uimm) s = .next t
            ∧ OnlyCsr rd (csrRead n s) s (csrWrite n (csrRead n s ||| uimm.setWidth 32) s) t)
        ∧ (∀ uimm : BitVec 5, uimm ≠ 0#5 → ∃ t, exec (.csrrci rd n uimm) s = .next t
            ∧ OnlyCsr rd (csrRead n s) s (csrWrite n (csrRead n s &&& ~~~ uimm.setWidth 32) s) t))
      ∧ (∃ t, exec (.csrrs rd n 0#5) s = .next t ∧ OnlyReg rd (csrRead n s) s t)
      ∧ (∃ t, exec (.csrrc rd n 0#5) s = .next t ∧ OnlyReg rd (csrRead n s) s t)
      ∧ (∃ t, exec (.csrrsi rd n 0#5) s = .next t ∧ OnlyReg rd (csrRead n s) s t)
      ∧ (∃ t, exec (.csrrci rd n 0#5) s = .next t ∧ OnlyReg rd (csrRead n s) s t)

/-- A CSR instruction that a check of the gate stops is illegal and changes nothing else (46_system_csr.md R381): the read
check always, the write check where the form writes. -/
def Obligations.CsrGateFailureTraps : Prop :=
  ∀ (rd : Reg) (n : CsrNum) (s : State),
    let illegal := Host.Outcome.next (φ := Fault) (ρ := Refusal) (trapEntry false 2 s.rawInst s.pc s)
    (csrCheck n false s = false →
      ∀ (rs1 : Reg) (uimm : BitVec 5), exec (.csrrw rd n rs1) s = illegal ∧ exec (.csrrs rd n rs1) s = illegal
        ∧ exec (.csrrc rd n rs1) s = illegal ∧ exec (.csrrwi rd n uimm) s = illegal
        ∧ exec (.csrrsi rd n uimm) s = illegal ∧ exec (.csrrci rd n uimm) s = illegal)
      ∧ (csrCheck n true s = false →
        (∀ rs1, exec (.csrrw rd n rs1) s = illegal) ∧ (∀ uimm, exec (.csrrwi rd n uimm) s = illegal)
          ∧ (∀ rs1, rs1 ≠ 0#5 → exec (.csrrs rd n rs1) s = illegal ∧ exec (.csrrc rd n rs1) s = illegal)
          ∧ (∀ uimm, uimm ≠ 0#5 → exec (.csrrsi rd n uimm) s = illegal ∧ exec (.csrrci rd n uimm) s = illegal))

/-- Reading and writing through a row (10_state.md R35, R36, R61): the read mask, the write mask, the legal values of MPP;
every other storage word, the registers, memory, the bus and
the model's own fields are as before; so are the TLB and `asid_cache`, a write to `satp` apart (R37). -/
def Obligations.CsrReadAndWriteMasks : Prop :=
  ∀ (n : CsrNum) (r : CsrRow) (v : Word) (s : State), csrRow n = some r →
    let old := s.csr.get r.slot
    let masked := (old &&& ~~~ r.wmask) ||| (v &&& r.wmask)
    let t := csrWrite n v s
    csrRead n s = old &&& r.rmask
      ∧ (r.slot ≠ .mstatus ∨ statusMPP masked ≠ 2#2 → t.csr.get r.slot = masked)
      ∧ (r.slot = .mstatus → statusMPP masked = 2#2 → statusMPP t.csr.mstatus = statusMPP s.csr.mstatus
          ∧ ∀ k, k ≠ 11 → k ≠ 12 → t.csr.mstatus.getLsbD k = masked.getLsbD k)
      ∧ (∀ q, q ≠ r.slot → t.csr.get q = s.csr.get q)
      ∧ SameRegs s t ∧ SameBytes s t ∧ t.pc = s.pc ∧ t.nextPc = s.nextPc ∧ t.priv = s.priv ∧ t.resv = s.resv
      ∧ t.bus = s.bus ∧ t.busCalls = s.busCalls ∧ t.result = s.result ∧ t.rawInst = s.rawInst
      ∧ (n ≠ 0x180#12 → SameTlb s t ∧ t.asidCache = s.asidCache)

/-- What each of the 30 numbers of 10_state.md R40 reads and writes (R41 to R59): its storage word, its read mask and its
write mask, `sstatus`, `sie` and `sip` being views; a write of 2 to MPP apart (R61). `misa` never changes (R43), and the
four identification registers read 0 (R59). -/
def Obligations.CsrViews : Prop :=
  ∀ (v : Word) (s : State),
    let reads : CsrNum → (Csrs → Word) → Word → Prop := fun n word rmask => csrRead n s = word s.csr &&& rmask
    let writes : CsrNum → (Csrs → Word) → Word → Prop := fun n word wmask =>
      word (csrWrite n v s).csr = (word s.csr &&& ~~~ wmask) ||| (v &&& wmask)
    let row : CsrNum → (Csrs → Word) → Word → Word → Prop := fun n word rmask wmask =>
      reads n word rmask ∧ writes n word wmask
    (row 0x100#12 Csrs.mstatus 0x000C0122#32 0x000C0122#32
        ∧ row 0x104#12 Csrs.mie 0x00000222#32 0x00000222#32
        ∧ row 0x105#12 Csrs.stvec 0xFFFFFFFF#32 0xFFFFFFFD#32
        ∧ row 0x106#12 Csrs.scounteren 0xFFFFFFFF#32 0xFFFFFFFF#32
        ∧ row 0x140#12 Csrs.sscratch 0xFFFFFFFF#32 0xFFFFFFFF#32
        ∧ row 0x141#12 Csrs.sepc 0xFFFFFFFF#32 0xFFFFFFFE#32
        ∧ row 0x142#12 Csrs.scause 0xFFFFFFFF#32 0xFFFFFFFF#32
        ∧ row 0x143#12 Csrs.stval 0xFFFFFFFF#32 0xFFFFFFFF#32
        ∧ row 0x144#12 Csrs.mip 0x00000222#32 0x00000002#32
        ∧ row 0x180#12 Csrs.satp 0xFFFFFFFF#32 0xFFFFFFFF#32)
      ∧ (reads 0x300#12 Csrs.mstatus 0x001E19AA#32 ∧ (statusMPP v ≠ 2#2 → writes 0x300#12 Csrs.mstatus 0x001E19AA#32)
        ∧ row 0x301#12 Csrs.misa 0xFFFFFFFF#32 0x00000000#32 ∧ csrWrite 0x301#12 v s = s
        ∧ row 0x302#12 Csrs.medeleg 0xFFFFFFFF#32 0x0000B3FF#32
        ∧ row 0x303#12 Csrs.mideleg 0xFFFFFFFF#32 0x00000222#32
        ∧ row 0x304#12 Csrs.mie 0xFFFFFFFF#32 0x00000AAA#32
        ∧ row 0x305#12 Csrs.mtvec 0xFFFFFFFF#32 0xFFFFFFFD#32
        ∧ row 0x306#12 Csrs.mcounteren 0xFFFFFFFF#32 0xFFFFFFFF#32
        ∧ row 0x340#12 Csrs.mscratch 0xFFFFFFFF#32 0xFFFFFFFF#32
        ∧ row 0x341#12 Csrs.mepc 0xFFFFFFFF#32 0xFFFFFFFE#32
        ∧ row 0x342#12 Csrs.mcause 0xFFFFFFFF#32 0xFFFFFFFF#32
        ∧ row 0x343#12 Csrs.mtval 0xFFFFFFFF#32 0xFFFFFFFF#32
        ∧ row 0x344#12 Csrs.mip 0xFFFFFFFF#32 0x00000222#32
        ∧ row 0xB00#12 Csrs.cycleLo 0xFFFFFFFF#32 0xFFFFFFFF#32
        ∧ row 0xB80#12 Csrs.cycleHi 0xFFFFFFFF#32 0xFFFFFFFF#32)
      ∧ (reads 0xC00#12 Csrs.cycleLo 0xFFFFFFFF#32 ∧ reads 0xC80#12 Csrs.cycleHi 0xFFFFFFFF#32
        ∧ csrRead 0xF11#12 s = 0#32 ∧ csrRead 0xF12#12 s = 0#32 ∧ csrRead 0xF13#12 s = 0#32 ∧ csrRead 0xF14#12 s = 0#32)

/-- A write to `satp` (10_state.md R37, 21_mmu_tlb.md R177): every entry of the three tables that is not global becomes
invalid, the others stay as they are, and `asid_cache` is the new `satp[30:22]`. -/
def Obligations.SatpWriteFlushesNonGlobal : Prop :=
  ∀ (v : Word) (s : State),
    let t := csrWrite 0x180#12 v s
    let kept : TlbEntry → TlbEntry := fun e => { e with valid := e.valid && e.global }
    t.csr = { s.csr with satp := v } ∧ t.asidCache = v.extractLsb' 22 9
      ∧ (∀ (i : Fin Config.itlbSets) (j : Fin Config.itlbWays), t.itlb[i][j] = kept s.itlb[i][j])
      ∧ (∀ (i : Fin Config.dtlbSets) (j : Fin Config.dtlbWays), t.dtlb[i][j] = kept s.dtlb[i][j])
      ∧ (∀ j : Fin Config.stlbEntries, t.stlb[j] = kept s.stlb[j])

/-- SFENCE.VMA where it is allowed makes every entry of the three tables invalid, also the global ones, and changes
nothing else (46_system_csr.md R394, 21_mmu_tlb.md R176); FENCE and FENCE.I do nothing (R396, R397). -/
def Obligations.FencesAndTranslationFlush : Prop :=
  (∀ (s : State) (rs1 rs2 : Reg), (s.priv = .M ∨ s.priv = .S ∧ statusTVM s.csr.mstatus = false) →
      ∃ t, exec (.sfenceVma rs1 rs2) s = .next t ∧ TranslationOnly s t ∧ t.busCalls = s.busCalls
        ∧ (∀ (i : Fin Config.itlbSets) (j : Fin Config.itlbWays), t.itlb[i][j] = { s.itlb[i][j] with valid := false })
        ∧ (∀ (i : Fin Config.dtlbSets) (j : Fin Config.dtlbWays), t.dtlb[i][j] = { s.dtlb[i][j] with valid := false })
        ∧ (∀ j : Fin Config.stlbEntries, t.stlb[j] = { s.stlb[j] with valid := false }))
    ∧ (∀ s fm pred succ rs1 rd, exec (.fence fm pred succ rs1 rd) s = .next s)
    ∧ (∀ s imm rs1 rd, exec (.fenceI imm rs1 rd) s = .next s)

/-! ### Translation -/

/-- The effective privilege and the bypass (21_mmu_tlb.md R147, R148; 60_exceptions.md R522). MPRV makes MPP the effective
privilege of data accesses at every current privilege, never of fetches; a MPP of 2, which no run reaches, is left out (log
entry 16). An access is bypassed exactly if translation is off at the root or its effective privilege is M: so with
`satp.MODE` 1 no access of effective privilege U or S is. Bypassed, the physical address is the virtual one and nothing
changes; and a data access under MPRV is translated and checked as if `priv` were MPP and MPRV were 0. -/
def Obligations.IdentityBypass : Prop :=
  ∀ (va : Word) (kind : Access) (s : State),
    let byMpp : Prop := kind ≠ .X ∧ statusMPRV s.csr.mstatus = true
    (byMpp → statusMPP s.csr.mstatus ≠ 2#2 → (effectivePriv kind s).bits = statusMPP s.csr.mstatus)
      ∧ (¬ byMpp → effectivePriv kind s = s.priv)
      ∧ (bypasses kind s = true ↔ satpMode s.csr.satp = false ∨ effectivePriv kind s = .M)
      ∧ ((satpMode s.csr.satp = false ∨ (byMpp ∧ statusMPP s.csr.mstatus = 3#2) ∨ (¬ byMpp ∧ s.priv = .M)) →
        translate va kind s = .ok (va.setWidth Config.paBits) s)
      ∧ (byMpp → ∀ p : Priv, p.bits = statusMPP s.csr.mstatus →
        SameAnswer (translate va kind s) (translate va kind
          { s with priv := p, csr := { s.csr with mstatus := s.csr.mstatus &&& ~~~0x00020000#32 } }))

/-- The permission check and its fault (21_mmu_tlb.md R170, R171): cause 12, 13 or 15 with the virtual address. -/
def Obligations.PermissionCheck : Prop :=
  ∀ (e : TlbEntry) (va : Word) (kind : Access) (eff : Priv) (s : State),
    (PermissionDenied e.pte kind eff s.csr.mstatus → checkedAddr e va kind eff s =
        .raise (match kind with | .X => .instrPage | .R => .loadPage | .W => .storePage) va s)
      ∧ (¬ PermissionDenied e.pte kind eff s.csr.mstatus → checkedAddr e va kind eff s = .ok (physAddr e va) s)

/-- The page walk by cases (21_mmu_tlb.md R155, R156, R158 with MISALIGNED_SUPERPAGE = fault, log entry 10): the root
entry is at PPN * 4096 + VPN1 * 4, all PA_BITS of it going to the bus (log entry 17); a read that the bus does not answer
with OK is the access fault of the access; an invalid or malformed entry and a misaligned superpage leaf are its page fault;
a pointer leads to the entry at PPN * 4096 + VPN0 * 4, where the walk stops. The walk changes nothing (R157) but by its bus
calls, of which the model counts those of an oracle (log entry 20). Which addresses fail is the bus's: with the one that stands in the reset state, those outside 0x80000000 to
0x87FFFFFF (log entry 12). -/
def Obligations.WalkByCases : Prop :=
  ∀ (va : Word) (kind : Access) (s : State),
    let broken : Word → Prop := fun p => pteV p = false ∨ (pteR p = false ∧ pteW p = true)
    let leaf : Word → Prop := fun p => pteR p = true ∨ pteX p = true
    let a1 : PAddr := BitVec.ofNat Config.paBits ((satpPpn s.csr.satp).toNat * 4096 + (vpn1 va).toNat * 4)
    let bad1 : Prop := (busAnswer s .read a1 4).status ≠ .ok
    let p1 := readData s a1 4
    let t := busAfter s .read a1 4
    let a0 : PAddr := BitVec.ofNat Config.paBits ((ptePpn p1).toNat * 4096 + (vpn0 va).toNat * 4)
    let bad0 : Prop := (busAnswer t .read a0 4).status ≠ .ok
    let p0 := readData t a0 4
    let u := busAfter t .read a0 4
    (bad1 → walk va kind s = .raise (accessExc kind) va t)
      ∧ (¬ bad1 → broken p1 → walk va kind s = .raise (pageExc kind) va t)
      ∧ (¬ bad1 → ¬ broken p1 → leaf p1 → ptePpn0 p1 = 0#10 → walk va kind s = .ok (p1, .superPage) t)
      ∧ (¬ bad1 → ¬ broken p1 → leaf p1 → ptePpn0 p1 ≠ 0#10 → walk va kind s = .raise (pageExc kind) va t)
      ∧ (¬ bad1 → ¬ broken p1 → ¬ leaf p1 → bad0 → walk va kind s = .raise (accessExc kind) va u)
      ∧ (¬ bad1 → ¬ broken p1 → ¬ leaf p1 → ¬ bad0 → broken p0 → walk va kind s = .raise (pageExc kind) va u)
      ∧ (¬ bad1 → ¬ broken p1 → ¬ leaf p1 → ¬ bad0 → ¬ broken p0 → walk va kind s = .ok (p0, .basePage) u)
      ∧ BusOnly s t ∧ BusOnly t u

/-- A translation that misses in the tables and whose walk ends at a leaf (21_mmu_tlb.md R146, R160, R165 to R168, R170):
the address is the leaf's page frame with the offset of its level, the new entry takes the victim of the set of the level
and kind with the highest rank and every other way there loses one positive rank, the other sets and tables stay, and a
failed permission check comes after the insertion. Where the walk raises, the translation raises the same and inserts
nothing. MAXRANK is that of the chosen geometry (log entry 5), the address is
PA_BITS wide (log entry 17). -/
def Obligations.TranslationAfterWalk : Prop :=
  (∀ (va : Word) (kind : Access) (s w : State) (pte : Word) (level : PageLevel),
      bypasses kind s = false → hitSuper va s = none → hitBase va kind s = none → walk va kind s = .ok (pte, level) w →
      ∃ u, TranslationOnly s u ∧ u.busCalls = w.busCalls
        ∧ (¬ PermissionDenied pte kind (effectivePriv kind s) s.csr.mstatus → translate va kind s = .ok
            (BitVec.ofNat Config.paBits (match level with
              | .basePage => (ptePpn pte).toNat * 2 ^ 12 + va.toNat % 2 ^ 12
              | .superPage => (ptePpn pte).toNat / 2 ^ 10 * 2 ^ 22 + va.toNat % 2 ^ 22)) u)
        ∧ (PermissionDenied pte kind (effectivePriv kind s) s.csr.mstatus →
            translate va kind s = .raise (pageExc kind) va u)
        ∧ (let entry : TlbEntry :=
            { vpn := match level with
                | .basePage => va.extractLsb' 12 20
                | .superPage => va.extractLsb' 22 10 ++ 0#10
              ppn := pte.extractLsb' 10 22, pte := pte, valid := true, global := pte.getLsbD 5, level := level
              asid := s.asidCache, lru := 0 }
          match level, kind with
          | .superPage, _ => Inserted s.stlb u.stlb entry ∧ u.itlb = s.itlb ∧ u.dtlb = s.dtlb
          | .basePage, .X => Inserted s.itlb[setIndex Config.itlbSets va] u.itlb[setIndex Config.itlbSets va] entry
            ∧ (∀ i : Fin Config.itlbSets, i ≠ setIndex Config.itlbSets va → u.itlb[i] = s.itlb[i])
            ∧ u.dtlb = s.dtlb ∧ u.stlb = s.stlb
          | .basePage, _ => Inserted s.dtlb[setIndex Config.dtlbSets va] u.dtlb[setIndex Config.dtlbSets va] entry
            ∧ (∀ i : Fin Config.dtlbSets, i ≠ setIndex Config.dtlbSets va → u.dtlb[i] = s.dtlb[i])
            ∧ u.itlb = s.itlb ∧ u.stlb = s.stlb))
    ∧ (∀ (va : Word) (kind : Access) (s w : State) (e : Exc) (v : Word),
      bypasses kind s = false → hitSuper va s = none → hitBase va kind s = none → walk va kind s = .raise e v w →
      translate va kind s = .raise e v w)

/-- Translation is deterministic (21_mmu_tlb.md R181). Repeated at once it gives the same address, whatever memory holds.
Where all
that answers the bus is memory and the tables agree with the page tables in it, translation answers from a cache as a full
walk would, address or exception; that agreement survives it; and after any translation, each translation
answers as before, "whether served from cache or recomputed by a full walk". Empty tables agree with any memory. -/
def Obligations.TranslationRepeats : Prop :=
  (∀ (va : Word) (kind : Access) (s u : State) (pa : PAddr), translate va kind s = .ok pa u →
      ∃ w, translate va kind u = .ok pa w)
    ∧ (∀ s : State, TlbLegal s → TlbCoherent s → RamOnly s.bus → ∀ (va : Word) (kind : Access),
      SameAnswer (translate va kind s) (translate va kind (tlbFlushAll s))
        ∧ ∀ u, Leaves (translate va kind s) u → TlbLegal u ∧ TlbCoherent u
          ∧ ∀ (va' : Word) (kind' : Access), SameAnswer (translate va' kind' u) (translate va' kind' s))
    ∧ (∀ s : State, TlbCoherent (tlbFlushAll s))

/-- Which entry serves an address: the first valid way of the superpage TLB that matches `va[31:22]` and is global or of the
current address-space id, else the first valid way with `va[31:12]` in the set and the table of the access kind; it is
promoted (21_mmu_tlb.md R150 to R152; the numbers of sets and ways are log entry 5). A translation served so does not look at memory or at the bus: a changed page table
is not seen until the entry goes, neither its address nor its permission, A and D bits, so that an access may fault again
whatever memory holds (R180, 20_memory.md R121). -/
def Obligations.CachedTranslationIgnoresMemory : Prop :=
  (∀ (va : Word) (s : State),
      let serves : TlbEntry → Prop := fun e =>
        e.valid = true ∧ e.vpn.extractLsb' 10 10 = va.extractLsb' 22 10 ∧ (e.global = true ∨ e.asid = s.asidCache)
      let servesBase : TlbEntry → Prop := fun e => e.valid = true ∧ e.vpn = va.extractLsb' 12 20
      let i := setIndex Config.itlbSets va
      let d := setIndex Config.dtlbSets va
      ((∀ k : Fin Config.stlbEntries, ¬ serves s.stlb[k]) → hitSuper va s = none)
        ∧ (∀ k : Fin Config.stlbEntries, serves s.stlb[k] → (∀ j < k, ¬ serves s.stlb[j]) →
          hitSuper va s = some (s.stlb[k], { s with stlb := promote s.stlb k }))
        ∧ i.val = va.toNat / 4096 % Config.itlbSets ∧ d.val = va.toNat / 4096 % Config.dtlbSets
        ∧ ((∀ k : Fin Config.itlbWays, ¬ servesBase s.itlb[i][k]) → hitBase va .X s = none)
        ∧ (∀ k : Fin Config.itlbWays, servesBase s.itlb[i][k] → (∀ j < k, ¬ servesBase s.itlb[i][j]) →
          hitBase va .X s = some (s.itlb[i][k], { s with itlb := s.itlb.set i (promote s.itlb[i] k) }))
        ∧ ∀ kind : Access, kind ≠ .X →
          ((∀ k : Fin Config.dtlbWays, ¬ servesBase s.dtlb[d][k]) → hitBase va kind s = none)
            ∧ (∀ k : Fin Config.dtlbWays, servesBase s.dtlb[d][k] → (∀ j < k, ¬ servesBase s.dtlb[d][j]) →
              hitBase va kind s = some (s.dtlb[d][k], { s with dtlb := s.dtlb.set d (promote s.dtlb[d] k) })))
    ∧ (∀ (va : Word) (kind : Access) (s u : State) (e : TlbEntry) (m : Memory) (b : BusMap),
      bypasses kind s = false →
      (hitSuper va s = some (e, u) ∨ (hitSuper va s = none ∧ hitBase va kind s = some (e, u))) →
      (¬ PermissionDenied e.pte kind (effectivePriv kind s) s.csr.mstatus →
          translate va kind { s with mem := m, bus := b } = .ok (physAddr e va) { u with mem := m, bus := b })
        ∧ (PermissionDenied e.pte kind (effectivePriv kind s) s.csr.mstatus →
          translate va kind { s with mem := m, bus := b } = .raise (pageExc kind) va { u with mem := m, bus := b }))

/-- LRU ranks and the choice of the victim (21_mmu_tlb.md R152, R166, R168): promotion makes a rank the highest and lowers
every other positive one; an insertion overwrites the first invalid way or, with none, the first of the lowest rank, and
promotes it. -/
def Obligations.PromotionAndEviction : Prop :=
  ∀ (n : Nat) [NeZero n] (ways : Vector TlbEntry n) (k i : Fin n) (e : TlbEntry),
    (promote ways k)[i] = { ways[i] with lru := if i = k then n - 1 else ways[i].lru - 1 }
      ∧ ((ways[k].valid = false ∧ ∀ j < k, ways[j].valid = true) → fill ways e = promote (ways.set k e) k)
      ∧ (((∀ j : Fin n, ways[j].valid = true) ∧ (∀ j : Fin n, ways[k].lru ≤ ways[j].lru)
            ∧ ∀ j < k, ways[k].lru < ways[j].lru) → fill ways e = promote (ways.set k e) k)

/-! ### Loads and stores -/

/-- Behind a bus that is one memory, in bare mode, after a word store a word, halfword or byte load of the stored bytes
reads them, little-endian (20_memory.md R104). -/
def Obligations.StoreThenLoad : Prop :=
  ∀ (a v : Word) (s u : State) (r : Region), s.mem.wf = true → s.bus = [r] → r.kind ≠ .oracle →
    satpMode s.csr.satp = false → memWrite a .word v s = .ok () u →
    memRead a .word .R u = .ok v u
      ∧ memRead a .half .R u = .ok (v.setWidth 16 |>.setWidth 32) u
      ∧ memRead (a + 2#32) .half .R u = .ok ((v >>> 16).setWidth 16 |>.setWidth 32) u
      ∧ ∀ k : Nat, k < 4 →
          memRead (a + BitVec.ofNat 32 k) .byte .R u = .ok ((v >>> (8 * k)).setWidth 8 |>.setWidth 32) u

/-- The loads inside one page (41_loads_stores.md R261 to R265, 48_compressed.md R433, R453): `rd` gets the bytes that the
bus brings from the translated address, extended; nothing else changes but what the translation and the bus call change,
which behind an oracle is the count of its calls (log entry 20). -/
def Obligations.LoadsInPage : Prop :=
  (∀ (rd rs1 : Reg) (imm : BitVec 12) (s u : State) (pa : PAddr),
      let ea := s.reg rs1 + imm.signExtend 32
      let loads : Instr → Nat → Word → Prop := fun i n v =>
        ∃ t, exec i s = .next t ∧ OnlyLoad rd v s (busAfter u .read pa n) t
      (Reaches ea .byte .read s pa u →
          loads (.lb rd rs1 imm) 1 (((readData u pa 1).setWidth 8).signExtend 32)
            ∧ loads (.lbu rd rs1 imm) 1 (((readData u pa 1).setWidth 8).setWidth 32))
        ∧ (Reaches ea .half .read s pa u →
          loads (.lh rd rs1 imm) 2 (((readData u pa 2).setWidth 16).signExtend 32)
            ∧ loads (.lhu rd rs1 imm) 2 (((readData u pa 2).setWidth 16).setWidth 32))
        ∧ (Reaches ea .word .read s pa u → loads (.lw rd rs1 imm) 4 (readData u pa 4)))
    ∧ (∀ (rd rs1 : CReg) (uimm : BitVec 7) (s u : State) (pa : PAddr),
      Reaches (s.reg (1#2 ++ rs1) + uimm.setWidth 32) .word .read s pa u →
        ∃ t, exec (.cLw rd rs1 uimm) s = .next t
          ∧ OnlyLoad (1#2 ++ rd) (readData u pa 4) s (busAfter u .read pa 4) t)
    ∧ (∀ (rd : Reg) (uimm : BitVec 8) (s u : State) (pa : PAddr),
      Reaches (s.reg 2#5 + uimm.setWidth 32) .word .read s pa u →
        ∃ t, exec (.cLwsp rd uimm) s = .next t ∧ OnlyLoad rd (readData u pa 4) s (busAfter u .read pa 4) t)

/-- The stores inside one page (41_loads_stores.md R266 to R268, 48_compressed.md R434, R459): the low bytes of `rs2` go to
the translated address; every other byte, every register and everything else but the TLB is as before. Where an oracle
answers, one call is counted and no byte of memory changes: the model's choice (log entry 20), for which 20_memory.md R120
speaks, since devices change memory only between steps. -/
def Obligations.StoresInPage : Prop :=
  (∀ (rs2 rs1 : Reg) (imm : BitVec 12) (s u : State) (pa : PAddr), s.mem.wf = true →
      let ea := s.reg rs1 + imm.signExtend 32
      let v := s.reg rs2
      (Reaches ea .byte (.write v) s pa u → ∃ t, exec (.sb rs2 rs1 imm) s = .next t ∧ OnlyStore pa 1 v s u t)
        ∧ (Reaches ea .half (.write v) s pa u → ∃ t, exec (.sh rs2 rs1 imm) s = .next t ∧ OnlyStore pa 2 v s u t)
        ∧ (Reaches ea .word (.write v) s pa u → ∃ t, exec (.sw rs2 rs1 imm) s = .next t ∧ OnlyStore pa 4 v s u t))
    ∧ (∀ (rs2 rs1 : CReg) (uimm : BitVec 7) (s u : State) (pa : PAddr), s.mem.wf = true →
      let v := s.reg (1#2 ++ rs2)
      Reaches (s.reg (1#2 ++ rs1) + uimm.setWidth 32) .word (.write v) s pa u →
        ∃ t, exec (.cSw rs2 rs1 uimm) s = .next t ∧ OnlyStore pa 4 v s u t)
    ∧ (∀ (rs2 : Reg) (uimm : BitVec 8) (s u : State) (pa : PAddr), s.mem.wf = true →
      let v := s.reg rs2
      Reaches (s.reg 2#5 + uimm.setWidth 32) .word (.write v) s pa u →
        ∃ t, exec (.cSwsp rs2 uimm) s = .next t ∧ OnlyStore pa 4 v s u t)

/-- An access across a page boundary is two accesses with their own translations, low part first (20_memory.md R107,
R110, R111): a halfword at page offset 0xFFF, a word at 0xFFE, whatever instruction makes it. A failure of the low part,
in its translation or on the bus, has the effective address as trap value, and a store then has written nothing; a failure
of the high part has the high part's address, `rd` is not written, and the low part of a store stays written (R109). A part
is written to memory where memory answers it; a part that an oracle answers leaves every byte of memory and is counted: the
model's choice (log entry 20; R120). -/
def Obligations.SplitAccesses : Prop :=
  ∀ (i : Instr) (s : State) (width : Width) (op : BusOp) (ea : Word) (n : Nat), s.mem.wf = true →
    accessOf s i = some (width, op, ea) →
    (width = .half ∧ pageOffset ea = 0xFFF#12 ∧ n = 1 ∨ width = .word ∧ pageOffset ea = 0xFFE#12 ∧ n = 2) →
    let kind := opKind op
    let lowOp := op
    let highOp : BusOp := match op with
      | .read => .read
      | .write v => .write (v >>> (8 * n))
    let high := ea + BitVec.ofNat 32 n
    (∀ e x u, translate ea kind s = .raise e x u →
        exec i s = .next (trapEntry false e.code ea s.pc u) ∧ SameBytes s u)
      ∧ (∀ p u, translate ea kind s = .ok p u →
        let mid := busAfter u lowOp p n
        let status := (busAnswer u lowOp p n).status
        (status ≠ .ok → exec i s = .next (trapEntry false (rejectCause kind status) ea s.pc mid) ∧ SameBytes s mid)
          ∧ (status = .ok →
            (match op with
              | .read => SameBytes s mid
              | .write v => Stored s.bus p n v s mid)
            ∧ (∀ e x w, translate high kind mid = .raise e x w →
              exec i s = .next (trapEntry false e.code high s.pc w) ∧ SameBytes mid w ∧ SameRegs s w)
            ∧ (∀ q w, translate high kind mid = .ok q w →
              let last := busAfter w highOp q n
              let status := (busAnswer w highOp q n).status
              (status ≠ .ok → exec i s = .next (trapEntry false (rejectCause kind status) high s.pc last)
                  ∧ SameBytes mid last ∧ SameRegs s last)
                ∧ (status = .ok → ∃ t, exec i s = .next t ∧ t.nextPc = s.nextPc ∧ t.resv = s.resv ∧ SameControl s t
                  ∧ SameTlbBus last t
                  ∧ (match op with
                    | .read => SameBytes s t ∧ SameRegsBut (destOf i) s t
                        ∧ (∀ rd rs1 imm, i = .lh rd rs1 imm → RegWritten rd
                            (((readData w q 1).setWidth 8 ++ (readData u p 1).setWidth 8).signExtend 32) s t)
                        ∧ (∀ rd rs1 imm, i = .lhu rd rs1 imm → RegWritten rd
                            (((readData w q 1).setWidth 8 ++ (readData u p 1).setWidth 8).setWidth 32) s t)
                        ∧ (width = .word → RegWritten (destOf i)
                            ((readData w q 2).setWidth 16 ++ (readData u p 2).setWidth 16) s t)
                    | .write v => SameRegs s t ∧ Stored s.bus q n (v >>> (8 * n)) mid t)))))

/-- The answers of the bus and the exceptions they fold into. The bus that stands in the reset state answers `ALIGN`,
`UNMAPPED` outside 0x80000000 to 0x87FFFFFF and `INVALID` for 8 bytes, in that order (20_memory.md R105, log entries 9 and
12). An oracle answers what it says; that every call of one, an accepted write too, leaves all of memory and is only counted
is the model's choice (log entry 20), for which R120 speaks, since devices change memory only between steps. A rejected
call of anything else changes nothing. A load or store inside one page
(41_loads_stores.md R260, R103, R106) takes what the translation raises; cause 4 or 6 where the bus answers ALIGN; cause 5
or 7 where it answers UNMAPPED or INVALID; the trap value is the effective address. An atomic whose address is not
4-aligned raises cause 4 (LR.W) or 6 before any translation (45_atomics.md R351). -/
def Obligations.AccessExceptions : Prop :=
  (∀ (s : State) (op : BusOp) (pa : PAddr) (n : Nat), n ∈ [1, 2, 4, 8] →
      (s.bus = Config.bus → (busAnswer s op pa n).status =
          if pa.toNat % n ≠ 0 then .align
          else if pa.toNat < 0x80000000 ∨ 0x88000000 < pa.toNat + n then .unmapped
          else if n = 8 then .invalid else .ok)
        ∧ (servedBy s.bus pa.toNat n = some .oracle →
          (busAnswer s op pa n).status = (Config.busOracle s.busCalls (match op with
              | .read => .read
              | .write v => .write (lowBytes n v)) pa n).status
            ∧ busAfter s op pa n = { s with busCalls := s.busCalls + 1 })
        ∧ (servedBy s.bus pa.toNat n ≠ some .oracle → (busAnswer s op pa n).status ≠ .ok → busAfter s op pa n = s))
    ∧ (∀ (i : Instr) (s : State) (w : Width) (op : BusOp) (ea : Word), accessOf s i = some (w, op, ea) →
      (pageOffset ea).toNat + w.bytes ≤ 4096 →
      (∀ e v u, translate ea (opKind op) s = .raise e v u → exec i s = .next (trapEntry false e.code ea s.pc u))
        ∧ (∀ pa u, translate ea (opKind op) s = .ok pa u → (busAnswer u op pa w.bytes).status = .align →
          exec i s = .next (trapEntry false (if op = .read then 4 else 6) ea s.pc (busAfter u op pa w.bytes)))
        ∧ (∀ pa u, translate ea (opKind op) s = .ok pa u →
          ((busAnswer u op pa w.bytes).status = .unmapped ∨ (busAnswer u op pa w.bytes).status = .invalid) →
          exec i s = .next (trapEntry false (if op = .read then 5 else 7) ea s.pc (busAfter u op pa w.bytes))))
    ∧ (∀ (aq rl : Bool) (rd rs2 rs1 : Reg) (s : State), (s.reg rs1).extractLsb' 0 2 ≠ 0#2 →
      exec (.lrW aq rl rd rs1) s = .next (trapEntry false 4 (s.reg rs1) s.pc s)
        ∧ ∀ i ∈ [Instr.scW aq rl rd rs2 rs1, .amoSwapW aq rl rd rs2 rs1, .amoAddW aq rl rd rs2 rs1,
            .amoXorW aq rl rd rs2 rs1, .amoAndW aq rl rd rs2 rs1, .amoOrW aq rl rd rs2 rs1, .amoMinW aq rl rd rs2 rs1,
            .amoMaxW aq rl rd rs2 rs1, .amoMinuW aq rl rd rs2 rs1, .amoMaxuW aq rl rd rs2 rs1],
          exec i s = .next (trapEntry false 6 (s.reg rs1) s.pc s))

/-! ### Atomics -/

/-- LR.W and SC.W at an aligned address (45_atomics.md R352, R353). LR.W loads and reserves its address; a translation that
raises (13 or 5) and a bus that rejects (4 or 5) leave the reservation and `rd`. SC.W clears the reservation whatever comes
of it, stores and answers 0 if it was to its address, and answers 1 with no access if it was not; a translation that raises
(15 or 7) and a bus that rejects (6 or 7) leave `rd`, with the reservation cleared. The word is stored to memory where
memory answers; where an oracle does, every byte of memory is as before and the call is counted: the model's choice (log
entry 20; 20_memory.md R120). -/
def Obligations.LoadReservedStoreConditional : Prop :=
  (∀ (aq rl : Bool) (rd rs1 : Reg) (s : State), (s.reg rs1).extractLsb' 0 2 = 0#2 →
      let ea := s.reg rs1
      (∀ e v u, translate ea .R s = .raise e v u →
          exec (.lrW aq rl rd rs1) s = .next (trapEntry false e.code ea s.pc u)
            ∧ (e = .loadPage ∨ e = .loadAccess) ∧ u.resv = s.resv ∧ SameRegs s u)
        ∧ (∀ pa u, translate ea .R s = .ok pa u →
          let w := busAfter u .read pa 4
          let status := (busAnswer u .read pa 4).status
          (status ≠ .ok → exec (.lrW aq rl rd rs1) s = .next (trapEntry false (rejectCause .R status) ea s.pc w)
              ∧ w.resv = s.resv ∧ SameRegs s w)
            ∧ (status = .ok → ∃ t, exec (.lrW aq rl rd rs1) s = .next t ∧ t.resv = some ea
              ∧ RegWritten rd (readData u pa 4) s t ∧ t.nextPc = s.nextPc ∧ SameControl s t ∧ SameTlbBus w t
              ∧ SameBytes s t)))
    ∧ (∀ (aq rl : Bool) (rd rs2 rs1 : Reg) (s : State), (s.reg rs1).extractLsb' 0 2 = 0#2 → s.mem.wf = true →
      s.resv = some (s.reg rs1) →
      let ea := s.reg rs1
      let v := s.reg rs2
      (∀ e x u, translate ea .W { s with resv := none } = .raise e x u →
          exec (.scW aq rl rd rs2 rs1) s = .next (trapEntry false e.code ea s.pc u)
            ∧ (e = .storePage ∨ e = .storeAccess) ∧ u.resv = none ∧ SameRegs s u)
        ∧ (∀ pa u, translate ea .W { s with resv := none } = .ok pa u →
          let w := busAfter u (.write v) pa 4
          let status := (busAnswer u (.write v) pa 4).status
          (status ≠ .ok → exec (.scW aq rl rd rs2 rs1) s = .next (trapEntry false (rejectCause .W status) ea s.pc w)
              ∧ w.resv = none ∧ SameRegs s w ∧ SameBytes s w)
            ∧ (status = .ok → ∃ t, exec (.scW aq rl rd rs2 rs1) s = .next t ∧ t.resv = none ∧ RegWritten rd 0#32 s t
              ∧ Stored s.bus pa 4 v s t ∧ t.nextPc = s.nextPc ∧ SameControl s t ∧ SameTlbBus w t)))
    ∧ (∀ (aq rl : Bool) (rd rs2 rs1 : Reg) (s : State), (s.reg rs1).extractLsb' 0 2 = 0#2 →
      s.resv ≠ some (s.reg rs1) →
      ∃ t, exec (.scW aq rl rd rs2 rs1) s = .next t ∧ t.resv = none ∧ RegWritten rd 1#32 s t ∧ t.nextPc = s.nextPc
        ∧ SameControl s t ∧ SameTlbBus s t ∧ SameBytes s t)

/-- The nine AMOs at an aligned address (45_atomics.md R354 to R362): translated once, as a write; `rd` gets the old word
that the bus brings, and the new one is written to the bus; the reservation is not touched (R364). Memory holds the new word
where memory answers; where an oracle does, every byte of memory is as before and both calls are counted: the model's choice
(log entry 20; 20_memory.md R120). Every fault is a store/AMO fault with the address as trap value
and leaves `rd` and memory: 15 or 7 from the translation, 6 or 7 from a rejected read or write. -/
def Obligations.AmoResults : Prop :=
  ∀ (aq rl : Bool) (rd rs2 rs1 : Reg) (s : State), (s.reg rs1).extractLsb' 0 2 = 0#2 → s.mem.wf = true →
    let ea := s.reg rs1
    let src := s.reg rs2
    let amos : List (Instr × (Word → Word)) :=
      [(.amoSwapW aq rl rd rs2 rs1, fun _ => src),
        (.amoAddW aq rl rd rs2 rs1, fun old => old + src),
        (.amoXorW aq rl rd rs2 rs1, fun old => old ^^^ src),
        (.amoAndW aq rl rd rs2 rs1, fun old => old &&& src),
        (.amoOrW aq rl rd rs2 rs1, fun old => old ||| src),
        (.amoMinW aq rl rd rs2 rs1, fun old => if old.toInt < src.toInt then old else src),
        (.amoMaxW aq rl rd rs2 rs1, fun old => if old.toInt > src.toInt then old else src),
        (.amoMinuW aq rl rd rs2 rs1, fun old => if old.toNat < src.toNat then old else src),
        (.amoMaxuW aq rl rd rs2 rs1, fun old => if old.toNat > src.toNat then old else src)]
    ∀ c ∈ amos,
      (∀ e x u, translate ea .W s = .raise e x u → exec c.1 s = .next (trapEntry false e.code ea s.pc u)
          ∧ (e = .storePage ∨ e = .storeAccess) ∧ SameRegs s u ∧ SameBytes s u)
        ∧ (∀ pa u, translate ea .W s = .ok pa u →
          let mid := busAfter u .read pa 4
          let status := (busAnswer u .read pa 4).status
          (status ≠ .ok → exec c.1 s = .next (trapEntry false (rejectCause .W status) ea s.pc mid)
              ∧ SameRegs s mid ∧ SameBytes s mid)
            ∧ (status = .ok →
              let old := readData u pa 4
              let new := c.2 old
              let last := busAfter mid (.write new) pa 4
              let status := (busAnswer mid (.write new) pa 4).status
              (status ≠ .ok → exec c.1 s = .next (trapEntry false (rejectCause .W status) ea s.pc last)
                  ∧ SameRegs s last ∧ SameBytes s last)
                ∧ (status = .ok → ∃ t, exec c.1 s = .next t ∧ OnlyAmo rd pa old new s mid t)))

/-! ### Arithmetic -/

/-- LUI, AUIPC and the immediate ALU instructions (47_upper_immediate.md R420, R421; 43_integer_alu.md R301 to R309): the
value of `rd`, and nothing else changes. -/
def Obligations.ImmediateResults : Prop :=
  ∀ (rd rs1 : Reg) (imm : BitVec 12) (imm20 : BitVec 20) (shamt : BitVec 5) (s : State),
    let a := s.reg rs1
    let b : Word := imm.signExtend 32
    let gives : Instr → Word → Prop := fun i v => ∃ t, exec i s = .next t ∧ OnlyReg rd v s t
    gives (.lui rd imm20) (imm20 ++ 0#12)
      ∧ gives (.auipc rd imm20) (s.pc + (imm20 ++ 0#12))
      ∧ gives (.addi rd rs1 imm) (a + b)
      ∧ gives (.slti rd rs1 imm) (if a.toInt < b.toInt then 1#32 else 0#32)
      ∧ gives (.sltiu rd rs1 imm) (if a.toNat < b.toNat then 1#32 else 0#32)
      ∧ gives (.xori rd rs1 imm) (a ^^^ b)
      ∧ gives (.ori rd rs1 imm) (a ||| b)
      ∧ gives (.andi rd rs1 imm) (a &&& b)
      ∧ gives (.slli rd rs1 shamt) (BitVec.ofNat 32 (a.toNat * 2 ^ shamt.toNat))
      ∧ gives (.srli rd rs1 shamt) (BitVec.ofNat 32 (a.toNat / 2 ^ shamt.toNat))
      ∧ gives (.srai rd rs1 shamt) (BitVec.ofInt 32 (a.toInt / 2 ^ shamt.toNat))

/-- The register ALU instructions (43_integer_alu.md R311 to R320): the value of `rd`, and nothing else changes; shift
amounts are the low five bits. -/
def Obligations.RegisterResults : Prop :=
  ∀ (rd rs1 rs2 : Reg) (s : State),
    let a := s.reg rs1
    let b := s.reg rs2
    let n := b.toNat % 32
    let gives : Instr → Word → Prop := fun i v => ∃ t, exec i s = .next t ∧ OnlyReg rd v s t
    gives (.add rd rs1 rs2) (BitVec.ofNat 32 (a.toNat + b.toNat))
      ∧ gives (.sub rd rs1 rs2) (BitVec.ofInt 32 (a.toInt - b.toInt))
      ∧ gives (.sll rd rs1 rs2) (BitVec.ofNat 32 (a.toNat * 2 ^ n))
      ∧ gives (.slt rd rs1 rs2) (if a.toInt < b.toInt then 1#32 else 0#32)
      ∧ gives (.sltu rd rs1 rs2) (if a.toNat < b.toNat then 1#32 else 0#32)
      ∧ gives (.xor rd rs1 rs2) (a ^^^ b)
      ∧ gives (.srl rd rs1 rs2) (BitVec.ofNat 32 (a.toNat / 2 ^ n))
      ∧ gives (.sra rd rs1 rs2) (BitVec.ofInt 32 (a.toInt / 2 ^ n))
      ∧ gives (.or rd rs1 rs2) (a ||| b)
      ∧ gives (.and rd rs1 rs2) (a &&& b)

/-- Multiply and divide (44_muldiv.md R331 to R338): the low or high word of the exact product; the quotient rounded toward
zero and its remainder, with the values for a divisor of 0 and for overflow; none traps, and nothing but `rd` changes. -/
def Obligations.MultiplyDivideResults : Prop :=
  ∀ (rd rs1 rs2 : Reg) (s : State),
    let a := s.reg rs1
    let b := s.reg rs2
    let gives : Instr → Word → Prop := fun i v => ∃ t, exec i s = .next t ∧ OnlyReg rd v s t
    gives (.mul rd rs1 rs2) (BitVec.ofInt 32 (a.toInt * b.toInt))
      ∧ gives (.mulh rd rs1 rs2) (BitVec.ofInt 32 (a.toInt * b.toInt / 2 ^ 32))
      ∧ gives (.mulhsu rd rs1 rs2) (BitVec.ofInt 32 (a.toInt * b.toNat / 2 ^ 32))
      ∧ gives (.mulhu rd rs1 rs2) (BitVec.ofNat 32 (a.toNat * b.toNat / 2 ^ 32))
      ∧ gives (.div rd rs1 rs2) (if b.toInt = 0 then 0xFFFFFFFF#32
          else if a.toInt = -2 ^ 31 ∧ b.toInt = -1 then 0x80000000#32 else BitVec.ofInt 32 (a.toInt.tdiv b.toInt))
      ∧ gives (.divu rd rs1 rs2) (if b.toNat = 0 then 0xFFFFFFFF#32 else BitVec.ofNat 32 (a.toNat / b.toNat))
      ∧ gives (.rem rd rs1 rs2) (if b.toInt = 0 then a
          else if a.toInt = -2 ^ 31 ∧ b.toInt = -1 then 0#32 else BitVec.ofInt 32 (a.toInt.tmod b.toInt))
      ∧ gives (.remu rd rs1 rs2) (if b.toNat = 0 then a else BitVec.ofNat 32 (a.toNat % b.toNat))

/-- The construction by four 16 x 16 partial products equals the exact products (44_muldiv.md R339). -/
def Obligations.PartialProductsMultiply : Prop :=
  ∀ a b : Word,
    (mulByParts a b).2 ++ (mulByParts a b).1 = BitVec.ofNat 64 (a.toNat * b.toNat)
      ∧ mulHighByParts a b = mulHigh a b ∧ mulHighSUByParts a b = mulHighSU a b
      ∧ (mulByParts a b).2 = mulHighU a b ∧ (mulByParts a b).1 = mulLow a b

/-- The comparisons by subtraction, sign and overflow equal the integer comparisons (42_branches_jumps.md R290). -/
def Obligations.ComparisonsBySubtraction : Prop :=
  ∀ a b : Word,
    (a - b = 0#32 ↔ a = b) ∧ (lessSignedBySub a b = true ↔ a.toInt < b.toInt)
      ∧ (lessUnsignedByBorrow a b = true ↔ a.toNat < b.toNat)

/-! ### Control flow -/

/-- The branches (42_branches_jumps.md R280 to R286, 48_compressed.md R450, R451): taken, `next_pc` is pc plus the offset;
not taken, it stays; no register is written. -/
def Obligations.BranchResults : Prop :=
  (∀ (rs1 rs2 : Reg) (off : BitVec 13) (s : State),
      let a := s.reg rs1
      let b := s.reg rs2
      let goes : Instr → Prop → Prop := fun i taken => ∃ t, exec i s = .next t
        ∧ (taken → OnlyNextPc (s.pc + off.signExtend 32) s t) ∧ (¬ taken → OnlyNextPc s.nextPc s t)
      goes (.beq rs1 rs2 off) (a = b) ∧ goes (.bne rs1 rs2 off) (a ≠ b)
        ∧ goes (.blt rs1 rs2 off) (a.toInt < b.toInt) ∧ goes (.bge rs1 rs2 off) (a.toInt ≥ b.toInt)
        ∧ goes (.bltu rs1 rs2 off) (a.toNat < b.toNat) ∧ goes (.bgeu rs1 rs2 off) (a.toNat ≥ b.toNat))
    ∧ (∀ (rs1 : CReg) (off : BitVec 9) (s : State),
      let goes : Instr → Prop → Prop := fun i taken => ∃ t, exec i s = .next t
        ∧ (taken → OnlyNextPc (s.pc + off.signExtend 32) s t) ∧ (¬ taken → OnlyNextPc s.nextPc s t)
      goes (.cBeqz rs1 off) (s.reg (1#2 ++ rs1) = 0#32) ∧ goes (.cBnez rs1 off) (s.reg (1#2 ++ rs1) ≠ 0#32))

/-- The jumps (42_branches_jumps.md R287, R288; 48_compressed.md R437, R449, R454, R457): the link is the `next_pc` the step
had set, the target is computed from the old registers, and an indirect target has bit 0 cleared. -/
def Obligations.JumpResults : Prop :=
  (∀ (rd rs1 : Reg) (off : BitVec 21) (imm : BitVec 12) (s : State),
      (∃ t, exec (.jal rd off) s = .next t ∧ OnlyJump rd s.nextPc (s.pc + off.signExtend 32) s t)
        ∧ (∃ t, exec (.jalr rd rs1 imm) s = .next t
            ∧ OnlyJump rd s.nextPc ((s.reg rs1 + imm.signExtend 32) &&& 0xFFFFFFFE#32) s t))
    ∧ (∀ (rs1 : Reg) (off : BitVec 12) (s : State),
      (∃ t, exec (.cJal off) s = .next t ∧ OnlyJump 1#5 s.nextPc (s.pc + off.signExtend 32) s t)
        ∧ (∃ t, exec (.cJ off) s = .next t ∧ OnlyNextPc (s.pc + off.signExtend 32) s t)
        ∧ (∃ t, exec (.cJr rs1) s = .next t ∧ OnlyNextPc (s.reg rs1 &&& 0xFFFFFFFE#32) s t)
        ∧ (∃ t, exec (.cJalr rs1) s = .next t ∧ OnlyJump 1#5 s.nextPc (s.reg rs1 &&& 0xFFFFFFFE#32) s t))

/-! ### Compressed instructions -/

/-- The compressed ALU instructions (48_compressed.md R432, R435, R436, R438 to R448, R452, R455, R458): the value of the
destination, a 3-bit field naming x8 to x15, and nothing else changes; C.NOP changes nothing. -/
def Obligations.CompressedAluResults : Prop :=
  ∀ (rd rs2 : Reg) (rdp rs2p : CReg) (imm : BitVec 6) (wide : BitVec 10) (shamt : BitVec 5) (s : State),
    let x : CReg → Reg := fun r => 1#2 ++ r
    let b : Word := imm.signExtend 32
    let a := s.reg (x rdp)
    let gives : Instr → Reg → Word → Prop := fun i r v => ∃ t, exec i s = .next t ∧ OnlyReg r v s t
    exec (.cNop imm) s = .next s
      ∧ gives (.cAddi4spn rdp wide) (x rdp) (s.reg 2#5 + wide.setWidth 32)
      ∧ gives (.cAddi rd imm) rd (s.reg rd + b)
      ∧ gives (.cLi rd imm) rd b
      ∧ gives (.cAddi16sp wide) 2#5 (s.reg 2#5 + wide.signExtend 32)
      ∧ gives (.cLui rd imm) rd ((imm ++ 0#12).signExtend 32)
      ∧ gives (.cSrli rdp shamt) (x rdp) (BitVec.ofNat 32 (a.toNat / 2 ^ shamt.toNat))
      ∧ gives (.cSrai rdp shamt) (x rdp) (BitVec.ofInt 32 (a.toInt / 2 ^ shamt.toNat))
      ∧ gives (.cAndi rdp imm) (x rdp) (a &&& b)
      ∧ gives (.cSub rdp rs2p) (x rdp) (a - s.reg (x rs2p))
      ∧ gives (.cXor rdp rs2p) (x rdp) (a ^^^ s.reg (x rs2p))
      ∧ gives (.cOr rdp rs2p) (x rdp) (a ||| s.reg (x rs2p))
      ∧ gives (.cAnd rdp rs2p) (x rdp) (a &&& s.reg (x rs2p))
      ∧ gives (.cSlli rd shamt) rd (BitVec.ofNat 32 ((s.reg rd).toNat * 2 ^ shamt.toNat))
      ∧ gives (.cMv rd rs2) rd (s.reg rs2)
      ∧ gives (.cAdd rd rs2) rd (s.reg rd + s.reg rs2)

/-- A compressed instruction is executed by the rule of the 32-bit instruction it expands to (48_compressed.md R430), and
that expansion is a well-formed 32-bit instruction; a 32-bit instruction is its own expansion. -/
def Obligations.CompressedRunsAsExpansion : Prop :=
  ∀ (i : Instr) (s : State), i.wf = true →
    exec i s = exec (expand i) s ∧ (expand i).wf = true ∧ (expand i).compressed = false
      ∧ (i.compressed = false → expand i = i)
end

