-- ==== Sys2Proof/Laws/State.lean ====
section
/-! SUPPORT. One lemma per field for each update of State, and what a register read sees after a register write, so that
no later proof unfolds a record update. -/

namespace Sys2Proof.Machine

/-! ### A register write -/

@[simp] theorem State.setReg_pc (s : State) (r : Reg) (v : Word) :
    (s.setReg r v).pc = s.pc := by
  unfold State.setReg; split <;> rfl

@[simp] theorem State.setReg_nextPc (s : State) (r : Reg) (v : Word) :
    (s.setReg r v).nextPc = s.nextPc := by
  unfold State.setReg; split <;> rfl

@[simp] theorem State.setReg_priv (s : State) (r : Reg) (v : Word) :
    (s.setReg r v).priv = s.priv := by
  unfold State.setReg; split <;> rfl

@[simp] theorem State.setReg_csr (s : State) (r : Reg) (v : Word) :
    (s.setReg r v).csr = s.csr := by
  unfold State.setReg; split <;> rfl

@[simp] theorem State.setReg_resv (s : State) (r : Reg) (v : Word) :
    (s.setReg r v).resv = s.resv := by
  unfold State.setReg; split <;> rfl

@[simp] theorem State.setReg_itlb (s : State) (r : Reg) (v : Word) :
    (s.setReg r v).itlb = s.itlb := by
  unfold State.setReg; split <;> rfl

@[simp] theorem State.setReg_dtlb (s : State) (r : Reg) (v : Word) :
    (s.setReg r v).dtlb = s.dtlb := by
  unfold State.setReg; split <;> rfl

@[simp] theorem State.setReg_stlb (s : State) (r : Reg) (v : Word) :
    (s.setReg r v).stlb = s.stlb := by
  unfold State.setReg; split <;> rfl

@[simp] theorem State.setReg_asidCache (s : State) (r : Reg) (v : Word) :
    (s.setReg r v).asidCache = s.asidCache := by
  unfold State.setReg; split <;> rfl

@[simp] theorem State.setReg_mem (s : State) (r : Reg) (v : Word) :
    (s.setReg r v).mem = s.mem := by
  unfold State.setReg; split <;> rfl

@[simp] theorem State.setReg_bus (s : State) (r : Reg) (v : Word) :
    (s.setReg r v).bus = s.bus := by
  unfold State.setReg; split <;> rfl

@[simp] theorem State.setReg_busCalls (s : State) (r : Reg) (v : Word) :
    (s.setReg r v).busCalls = s.busCalls := by
  unfold State.setReg; split <;> rfl

@[simp] theorem State.setReg_result (s : State) (r : Reg) (v : Word) :
    (s.setReg r v).result = s.result := by
  unfold State.setReg; split <;> rfl

@[simp] theorem State.setReg_rawInst (s : State) (r : Reg) (v : Word) :
    (s.setReg r v).rawInst = s.rawInst := by
  unfold State.setReg; split <;> rfl

/-! ### `next_pc` -/

@[simp] theorem State.setNextPc_x (s : State) (v : Word) :
    (s.setNextPc v).x = s.x := rfl

@[simp] theorem State.setNextPc_pc (s : State) (v : Word) :
    (s.setNextPc v).pc = s.pc := rfl

@[simp] theorem State.setNextPc_nextPc (s : State) (v : Word) :
    (s.setNextPc v).nextPc = v := rfl

@[simp] theorem State.setNextPc_priv (s : State) (v : Word) :
    (s.setNextPc v).priv = s.priv := rfl

@[simp] theorem State.setNextPc_csr (s : State) (v : Word) :
    (s.setNextPc v).csr = s.csr := rfl

@[simp] theorem State.setNextPc_resv (s : State) (v : Word) :
    (s.setNextPc v).resv = s.resv := rfl

@[simp] theorem State.setNextPc_itlb (s : State) (v : Word) :
    (s.setNextPc v).itlb = s.itlb := rfl

@[simp] theorem State.setNextPc_dtlb (s : State) (v : Word) :
    (s.setNextPc v).dtlb = s.dtlb := rfl

@[simp] theorem State.setNextPc_stlb (s : State) (v : Word) :
    (s.setNextPc v).stlb = s.stlb := rfl

@[simp] theorem State.setNextPc_asidCache (s : State) (v : Word) :
    (s.setNextPc v).asidCache = s.asidCache := rfl

@[simp] theorem State.setNextPc_mem (s : State) (v : Word) :
    (s.setNextPc v).mem = s.mem := rfl

@[simp] theorem State.setNextPc_bus (s : State) (v : Word) :
    (s.setNextPc v).bus = s.bus := rfl

@[simp] theorem State.setNextPc_busCalls (s : State) (v : Word) :
    (s.setNextPc v).busCalls = s.busCalls := rfl

@[simp] theorem State.setNextPc_result (s : State) (v : Word) :
    (s.setNextPc v).result = s.result := rfl

@[simp] theorem State.setNextPc_rawInst (s : State) (v : Word) :
    (s.setNextPc v).rawInst = s.rawInst := rfl

/-! ### A bus write -/

@[simp] theorem busPut_x (s : State) (pa : PAddr) (n : Nat) (v : Word) :
    (busPut s pa n v).x = s.x := rfl

@[simp] theorem busPut_pc (s : State) (pa : PAddr) (n : Nat) (v : Word) :
    (busPut s pa n v).pc = s.pc := rfl

@[simp] theorem busPut_nextPc (s : State) (pa : PAddr) (n : Nat) (v : Word) :
    (busPut s pa n v).nextPc = s.nextPc := rfl

@[simp] theorem busPut_priv (s : State) (pa : PAddr) (n : Nat) (v : Word) :
    (busPut s pa n v).priv = s.priv := rfl

@[simp] theorem busPut_csr (s : State) (pa : PAddr) (n : Nat) (v : Word) :
    (busPut s pa n v).csr = s.csr := rfl

@[simp] theorem busPut_resv (s : State) (pa : PAddr) (n : Nat) (v : Word) :
    (busPut s pa n v).resv = s.resv := rfl

@[simp] theorem busPut_itlb (s : State) (pa : PAddr) (n : Nat) (v : Word) :
    (busPut s pa n v).itlb = s.itlb := rfl

@[simp] theorem busPut_dtlb (s : State) (pa : PAddr) (n : Nat) (v : Word) :
    (busPut s pa n v).dtlb = s.dtlb := rfl

@[simp] theorem busPut_stlb (s : State) (pa : PAddr) (n : Nat) (v : Word) :
    (busPut s pa n v).stlb = s.stlb := rfl

@[simp] theorem busPut_asidCache (s : State) (pa : PAddr) (n : Nat) (v : Word) :
    (busPut s pa n v).asidCache = s.asidCache := rfl

@[simp] theorem busPut_mem (s : State) (pa : PAddr) (n : Nat) (v : Word) :
    (busPut s pa n v).mem = s.mem.writeLE pa.toNat n v := rfl

@[simp] theorem busPut_bus (s : State) (pa : PAddr) (n : Nat) (v : Word) :
    (busPut s pa n v).bus = s.bus := rfl

@[simp] theorem busPut_busCalls (s : State) (pa : PAddr) (n : Nat) (v : Word) :
    (busPut s pa n v).busCalls = s.busCalls := rfl

@[simp] theorem busPut_result (s : State) (pa : PAddr) (n : Nat) (v : Word) :
    (busPut s pa n v).result = s.result := rfl

@[simp] theorem busPut_rawInst (s : State) (pa : PAddr) (n : Nat) (v : Word) :
    (busPut s pa n v).rawInst = s.rawInst := rfl

/-! ### A bus call -/

@[simp] theorem busAfter_x (s : State) (op : BusOp) (pa : PAddr) (n : Nat) :
    (busAfter s op pa n).x = s.x := by
  unfold busAfter; repeat' split
  all_goals rfl

@[simp] theorem busAfter_pc (s : State) (op : BusOp) (pa : PAddr) (n : Nat) :
    (busAfter s op pa n).pc = s.pc := by
  unfold busAfter; repeat' split
  all_goals rfl

@[simp] theorem busAfter_nextPc (s : State) (op : BusOp) (pa : PAddr) (n : Nat) :
    (busAfter s op pa n).nextPc = s.nextPc := by
  unfold busAfter; repeat' split
  all_goals rfl

@[simp] theorem busAfter_priv (s : State) (op : BusOp) (pa : PAddr) (n : Nat) :
    (busAfter s op pa n).priv = s.priv := by
  unfold busAfter; repeat' split
  all_goals rfl

@[simp] theorem busAfter_csr (s : State) (op : BusOp) (pa : PAddr) (n : Nat) :
    (busAfter s op pa n).csr = s.csr := by
  unfold busAfter; repeat' split
  all_goals rfl

@[simp] theorem busAfter_resv (s : State) (op : BusOp) (pa : PAddr) (n : Nat) :
    (busAfter s op pa n).resv = s.resv := by
  unfold busAfter; repeat' split
  all_goals rfl

@[simp] theorem busAfter_itlb (s : State) (op : BusOp) (pa : PAddr) (n : Nat) :
    (busAfter s op pa n).itlb = s.itlb := by
  unfold busAfter; repeat' split
  all_goals rfl

@[simp] theorem busAfter_dtlb (s : State) (op : BusOp) (pa : PAddr) (n : Nat) :
    (busAfter s op pa n).dtlb = s.dtlb := by
  unfold busAfter; repeat' split
  all_goals rfl

@[simp] theorem busAfter_stlb (s : State) (op : BusOp) (pa : PAddr) (n : Nat) :
    (busAfter s op pa n).stlb = s.stlb := by
  unfold busAfter; repeat' split
  all_goals rfl

@[simp] theorem busAfter_asidCache (s : State) (op : BusOp) (pa : PAddr) (n : Nat) :
    (busAfter s op pa n).asidCache = s.asidCache := by
  unfold busAfter; repeat' split
  all_goals rfl

@[simp] theorem busAfter_bus (s : State) (op : BusOp) (pa : PAddr) (n : Nat) :
    (busAfter s op pa n).bus = s.bus := by
  unfold busAfter; repeat' split
  all_goals rfl

@[simp] theorem busAfter_result (s : State) (op : BusOp) (pa : PAddr) (n : Nat) :
    (busAfter s op pa n).result = s.result := by
  unfold busAfter; repeat' split
  all_goals rfl

@[simp] theorem busAfter_rawInst (s : State) (op : BusOp) (pa : PAddr) (n : Nat) :
    (busAfter s op pa n).rawInst = s.rawInst := by
  unfold busAfter; repeat' split
  all_goals rfl

/-! ### The start of a step -/

@[simp] theorem beginStep_x (s : State) :
    (beginStep s).x = s.x := rfl

@[simp] theorem beginStep_pc (s : State) :
    (beginStep s).pc = s.pc := rfl

@[simp] theorem beginStep_nextPc (s : State) :
    (beginStep s).nextPc = s.nextPc := rfl

@[simp] theorem beginStep_priv (s : State) :
    (beginStep s).priv = s.priv := rfl

@[simp] theorem beginStep_csr (s : State) :
    (beginStep s).csr = s.csr := rfl

@[simp] theorem beginStep_resv (s : State) :
    (beginStep s).resv = s.resv := rfl

@[simp] theorem beginStep_itlb (s : State) :
    (beginStep s).itlb = s.itlb := rfl

@[simp] theorem beginStep_dtlb (s : State) :
    (beginStep s).dtlb = s.dtlb := rfl

@[simp] theorem beginStep_stlb (s : State) :
    (beginStep s).stlb = s.stlb := rfl

@[simp] theorem beginStep_asidCache (s : State) :
    (beginStep s).asidCache = s.asidCache := rfl

@[simp] theorem beginStep_mem (s : State) :
    (beginStep s).mem = s.mem := rfl

@[simp] theorem beginStep_bus (s : State) :
    (beginStep s).bus = s.bus := rfl

@[simp] theorem beginStep_busCalls (s : State) :
    (beginStep s).busCalls = s.busCalls := rfl

@[simp] theorem beginStep_result (s : State) :
    (beginStep s).result = .noTrap := rfl

@[simp] theorem beginStep_rawInst (s : State) :
    (beginStep s).rawInst = s.rawInst := rfl

/-! ### The fetched instruction -/

@[simp] theorem arm_x (f : Fetched) (s : State) :
    (arm f s).x = s.x := rfl

@[simp] theorem arm_pc (f : Fetched) (s : State) :
    (arm f s).pc = s.pc := rfl

@[simp] theorem arm_nextPc (f : Fetched) (s : State) :
    (arm f s).nextPc = s.pc + f.len := rfl

@[simp] theorem arm_priv (f : Fetched) (s : State) :
    (arm f s).priv = s.priv := rfl

@[simp] theorem arm_csr (f : Fetched) (s : State) :
    (arm f s).csr = s.csr := rfl

@[simp] theorem arm_resv (f : Fetched) (s : State) :
    (arm f s).resv = s.resv := rfl

@[simp] theorem arm_itlb (f : Fetched) (s : State) :
    (arm f s).itlb = s.itlb := rfl

@[simp] theorem arm_dtlb (f : Fetched) (s : State) :
    (arm f s).dtlb = s.dtlb := rfl

@[simp] theorem arm_stlb (f : Fetched) (s : State) :
    (arm f s).stlb = s.stlb := rfl

@[simp] theorem arm_asidCache (f : Fetched) (s : State) :
    (arm f s).asidCache = s.asidCache := rfl

@[simp] theorem arm_mem (f : Fetched) (s : State) :
    (arm f s).mem = s.mem := rfl

@[simp] theorem arm_bus (f : Fetched) (s : State) :
    (arm f s).bus = s.bus := rfl

@[simp] theorem arm_busCalls (f : Fetched) (s : State) :
    (arm f s).busCalls = s.busCalls := rfl

@[simp] theorem arm_result (f : Fetched) (s : State) :
    (arm f s).result = s.result := rfl

@[simp] theorem arm_rawInst (f : Fetched) (s : State) :
    (arm f s).rawInst = f.raw := rfl

/-! ### Commit, before the interrupt check -/

@[simp] theorem commitPc_x (s : State) :
    (commitPc s).x = s.x := rfl

@[simp] theorem commitPc_pc (s : State) :
    (commitPc s).pc = s.nextPc := rfl

@[simp] theorem commitPc_nextPc (s : State) :
    (commitPc s).nextPc = s.nextPc := rfl

@[simp] theorem commitPc_priv (s : State) :
    (commitPc s).priv = s.priv := rfl

@[simp] theorem commitPc_csr (s : State) :
    (commitPc s).csr = s.csr.tick := rfl

@[simp] theorem commitPc_resv (s : State) :
    (commitPc s).resv = s.resv := rfl

@[simp] theorem commitPc_itlb (s : State) :
    (commitPc s).itlb = s.itlb := rfl

@[simp] theorem commitPc_dtlb (s : State) :
    (commitPc s).dtlb = s.dtlb := rfl

@[simp] theorem commitPc_stlb (s : State) :
    (commitPc s).stlb = s.stlb := rfl

@[simp] theorem commitPc_asidCache (s : State) :
    (commitPc s).asidCache = s.asidCache := rfl

@[simp] theorem commitPc_mem (s : State) :
    (commitPc s).mem = s.mem := rfl

@[simp] theorem commitPc_bus (s : State) :
    (commitPc s).bus = s.bus := rfl

@[simp] theorem commitPc_busCalls (s : State) :
    (commitPc s).busCalls = s.busCalls := rfl

@[simp] theorem commitPc_result (s : State) :
    (commitPc s).result = s.result := rfl

@[simp] theorem commitPc_rawInst (s : State) :
    (commitPc s).rawInst = s.rawInst := rfl

/-! ### Invalidation of TLB entries -/

@[simp] theorem dropEntries_x (p : TlbEntry → Bool) (s : State) :
    (dropEntries p s).x = s.x := rfl

@[simp] theorem dropEntries_pc (p : TlbEntry → Bool) (s : State) :
    (dropEntries p s).pc = s.pc := rfl

@[simp] theorem dropEntries_nextPc (p : TlbEntry → Bool) (s : State) :
    (dropEntries p s).nextPc = s.nextPc := rfl

@[simp] theorem dropEntries_priv (p : TlbEntry → Bool) (s : State) :
    (dropEntries p s).priv = s.priv := rfl

@[simp] theorem dropEntries_csr (p : TlbEntry → Bool) (s : State) :
    (dropEntries p s).csr = s.csr := rfl

@[simp] theorem dropEntries_resv (p : TlbEntry → Bool) (s : State) :
    (dropEntries p s).resv = s.resv := rfl

@[simp] theorem dropEntries_itlb (p : TlbEntry → Bool) (s : State) :
    (dropEntries p s).itlb = s.itlb.map (dropWays p) := rfl

@[simp] theorem dropEntries_dtlb (p : TlbEntry → Bool) (s : State) :
    (dropEntries p s).dtlb = s.dtlb.map (dropWays p) := rfl

@[simp] theorem dropEntries_stlb (p : TlbEntry → Bool) (s : State) :
    (dropEntries p s).stlb = dropWays p s.stlb := rfl

@[simp] theorem dropEntries_asidCache (p : TlbEntry → Bool) (s : State) :
    (dropEntries p s).asidCache = s.asidCache := rfl

@[simp] theorem dropEntries_mem (p : TlbEntry → Bool) (s : State) :
    (dropEntries p s).mem = s.mem := rfl

@[simp] theorem dropEntries_bus (p : TlbEntry → Bool) (s : State) :
    (dropEntries p s).bus = s.bus := rfl

@[simp] theorem dropEntries_busCalls (p : TlbEntry → Bool) (s : State) :
    (dropEntries p s).busCalls = s.busCalls := rfl

@[simp] theorem dropEntries_result (p : TlbEntry → Bool) (s : State) :
    (dropEntries p s).result = s.result := rfl

@[simp] theorem dropEntries_rawInst (p : TlbEntry → Bool) (s : State) :
    (dropEntries p s).rawInst = s.rawInst := rfl

/-! ### The side effect of a `satp` write -/

@[simp] theorem satpSideEffect_x (s : State) :
    (satpSideEffect s).x = s.x := rfl

@[simp] theorem satpSideEffect_pc (s : State) :
    (satpSideEffect s).pc = s.pc := rfl

@[simp] theorem satpSideEffect_nextPc (s : State) :
    (satpSideEffect s).nextPc = s.nextPc := rfl

@[simp] theorem satpSideEffect_priv (s : State) :
    (satpSideEffect s).priv = s.priv := rfl

@[simp] theorem satpSideEffect_csr (s : State) :
    (satpSideEffect s).csr = s.csr := rfl

@[simp] theorem satpSideEffect_resv (s : State) :
    (satpSideEffect s).resv = s.resv := rfl

@[simp] theorem satpSideEffect_itlb (s : State) :
    (satpSideEffect s).itlb = (tlbFlushNonGlobal s).itlb := rfl

@[simp] theorem satpSideEffect_dtlb (s : State) :
    (satpSideEffect s).dtlb = (tlbFlushNonGlobal s).dtlb := rfl

@[simp] theorem satpSideEffect_stlb (s : State) :
    (satpSideEffect s).stlb = (tlbFlushNonGlobal s).stlb := rfl

@[simp] theorem satpSideEffect_asidCache (s : State) :
    (satpSideEffect s).asidCache = satpAsid s.csr.satp := rfl

@[simp] theorem satpSideEffect_mem (s : State) :
    (satpSideEffect s).mem = s.mem := rfl

@[simp] theorem satpSideEffect_bus (s : State) :
    (satpSideEffect s).bus = s.bus := rfl

@[simp] theorem satpSideEffect_busCalls (s : State) :
    (satpSideEffect s).busCalls = s.busCalls := rfl

@[simp] theorem satpSideEffect_result (s : State) :
    (satpSideEffect s).result = s.result := rfl

@[simp] theorem satpSideEffect_rawInst (s : State) :
    (satpSideEffect s).rawInst = s.rawInst := rfl

/-! ### The host's injection -/

@[simp] theorem State.injectInterrupts_x (s : State) (sw timer ext : Bool) :
    (s.injectInterrupts sw timer ext).x = s.x := rfl

@[simp] theorem State.injectInterrupts_pc (s : State) (sw timer ext : Bool) :
    (s.injectInterrupts sw timer ext).pc = s.pc := rfl

@[simp] theorem State.injectInterrupts_nextPc (s : State) (sw timer ext : Bool) :
    (s.injectInterrupts sw timer ext).nextPc = s.nextPc := rfl

@[simp] theorem State.injectInterrupts_priv (s : State) (sw timer ext : Bool) :
    (s.injectInterrupts sw timer ext).priv = s.priv := rfl

@[simp] theorem State.injectInterrupts_resv (s : State) (sw timer ext : Bool) :
    (s.injectInterrupts sw timer ext).resv = s.resv := rfl

@[simp] theorem State.injectInterrupts_itlb (s : State) (sw timer ext : Bool) :
    (s.injectInterrupts sw timer ext).itlb = s.itlb := rfl

@[simp] theorem State.injectInterrupts_dtlb (s : State) (sw timer ext : Bool) :
    (s.injectInterrupts sw timer ext).dtlb = s.dtlb := rfl

@[simp] theorem State.injectInterrupts_stlb (s : State) (sw timer ext : Bool) :
    (s.injectInterrupts sw timer ext).stlb = s.stlb := rfl

@[simp] theorem State.injectInterrupts_asidCache (s : State) (sw timer ext : Bool) :
    (s.injectInterrupts sw timer ext).asidCache = s.asidCache := rfl

@[simp] theorem State.injectInterrupts_mem (s : State) (sw timer ext : Bool) :
    (s.injectInterrupts sw timer ext).mem = s.mem := rfl

@[simp] theorem State.injectInterrupts_bus (s : State) (sw timer ext : Bool) :
    (s.injectInterrupts sw timer ext).bus = s.bus := rfl

@[simp] theorem State.injectInterrupts_busCalls (s : State) (sw timer ext : Bool) :
    (s.injectInterrupts sw timer ext).busCalls = s.busCalls := rfl

@[simp] theorem State.injectInterrupts_result (s : State) (sw timer ext : Bool) :
    (s.injectInterrupts sw timer ext).result = s.result := rfl

@[simp] theorem State.injectInterrupts_rawInst (s : State) (sw timer ext : Bool) :
    (s.injectInterrupts sw timer ext).rawInst = s.rawInst := rfl

/-! ### A host write -/

@[simp] theorem State.hostWrite_x (s : State) (a : Nat) (b : Byte) :
    (s.hostWrite a b).x = s.x := rfl

@[simp] theorem State.hostWrite_pc (s : State) (a : Nat) (b : Byte) :
    (s.hostWrite a b).pc = s.pc := rfl

@[simp] theorem State.hostWrite_nextPc (s : State) (a : Nat) (b : Byte) :
    (s.hostWrite a b).nextPc = s.nextPc := rfl

@[simp] theorem State.hostWrite_priv (s : State) (a : Nat) (b : Byte) :
    (s.hostWrite a b).priv = s.priv := rfl

@[simp] theorem State.hostWrite_csr (s : State) (a : Nat) (b : Byte) :
    (s.hostWrite a b).csr = s.csr := rfl

@[simp] theorem State.hostWrite_resv (s : State) (a : Nat) (b : Byte) :
    (s.hostWrite a b).resv = s.resv := rfl

@[simp] theorem State.hostWrite_itlb (s : State) (a : Nat) (b : Byte) :
    (s.hostWrite a b).itlb = s.itlb := rfl

@[simp] theorem State.hostWrite_dtlb (s : State) (a : Nat) (b : Byte) :
    (s.hostWrite a b).dtlb = s.dtlb := rfl

@[simp] theorem State.hostWrite_stlb (s : State) (a : Nat) (b : Byte) :
    (s.hostWrite a b).stlb = s.stlb := rfl

@[simp] theorem State.hostWrite_asidCache (s : State) (a : Nat) (b : Byte) :
    (s.hostWrite a b).asidCache = s.asidCache := rfl

@[simp] theorem State.hostWrite_mem (s : State) (a : Nat) (b : Byte) :
    (s.hostWrite a b).mem = s.mem.write a b := rfl

@[simp] theorem State.hostWrite_bus (s : State) (a : Nat) (b : Byte) :
    (s.hostWrite a b).bus = s.bus := rfl

@[simp] theorem State.hostWrite_busCalls (s : State) (a : Nat) (b : Byte) :
    (s.hostWrite a b).busCalls = s.busCalls := rfl

@[simp] theorem State.hostWrite_result (s : State) (a : Nat) (b : Byte) :
    (s.hostWrite a b).result = s.result := rfl

@[simp] theorem State.hostWrite_rawInst (s : State) (a : Nat) (b : Byte) :
    (s.hostWrite a b).rawInst = s.rawInst := rfl

/-! ### A reset of the core -/

@[simp] theorem State.resetCore_x (s : State) :
    (s.resetCore).x = State.reset.x := rfl

@[simp] theorem State.resetCore_pc (s : State) :
    (s.resetCore).pc = State.reset.pc := rfl

@[simp] theorem State.resetCore_nextPc (s : State) :
    (s.resetCore).nextPc = State.reset.nextPc := rfl

@[simp] theorem State.resetCore_priv (s : State) :
    (s.resetCore).priv = State.reset.priv := rfl

@[simp] theorem State.resetCore_csr (s : State) :
    (s.resetCore).csr = State.reset.csr := rfl

@[simp] theorem State.resetCore_resv (s : State) :
    (s.resetCore).resv = State.reset.resv := rfl

@[simp] theorem State.resetCore_itlb (s : State) :
    (s.resetCore).itlb = State.reset.itlb := rfl

@[simp] theorem State.resetCore_dtlb (s : State) :
    (s.resetCore).dtlb = State.reset.dtlb := rfl

@[simp] theorem State.resetCore_stlb (s : State) :
    (s.resetCore).stlb = State.reset.stlb := rfl

@[simp] theorem State.resetCore_asidCache (s : State) :
    (s.resetCore).asidCache = State.reset.asidCache := rfl

@[simp] theorem State.resetCore_mem (s : State) :
    (s.resetCore).mem = s.mem := rfl

@[simp] theorem State.resetCore_bus (s : State) :
    (s.resetCore).bus = s.bus := rfl

@[simp] theorem State.resetCore_busCalls (s : State) :
    (s.resetCore).busCalls = s.busCalls := rfl

@[simp] theorem State.resetCore_result (s : State) :
    (s.resetCore).result = State.reset.result := rfl

@[simp] theorem State.resetCore_rawInst (s : State) :
    (s.resetCore).rawInst = State.reset.rawInst := rfl

/-! ### Trap entry leaves alone (60_exceptions.md R505) -/

@[simp] theorem trapEntry_x (isInt : Bool) (cause : Nat) (tval epc : Word) (s : State) :
    (trapEntry isInt cause tval epc s).x = s.x := by
  unfold trapEntry; split <;> rfl

@[simp] theorem trapEntry_nextPc (isInt : Bool) (cause : Nat) (tval epc : Word) (s : State) :
    (trapEntry isInt cause tval epc s).nextPc = s.nextPc := by
  unfold trapEntry; split <;> rfl

@[simp] theorem trapEntry_resv (isInt : Bool) (cause : Nat) (tval epc : Word) (s : State) :
    (trapEntry isInt cause tval epc s).resv = s.resv := by
  unfold trapEntry; split <;> rfl

@[simp] theorem trapEntry_itlb (isInt : Bool) (cause : Nat) (tval epc : Word) (s : State) :
    (trapEntry isInt cause tval epc s).itlb = s.itlb := by
  unfold trapEntry; split <;> rfl

@[simp] theorem trapEntry_dtlb (isInt : Bool) (cause : Nat) (tval epc : Word) (s : State) :
    (trapEntry isInt cause tval epc s).dtlb = s.dtlb := by
  unfold trapEntry; split <;> rfl

@[simp] theorem trapEntry_stlb (isInt : Bool) (cause : Nat) (tval epc : Word) (s : State) :
    (trapEntry isInt cause tval epc s).stlb = s.stlb := by
  unfold trapEntry; split <;> rfl

@[simp] theorem trapEntry_asidCache (isInt : Bool) (cause : Nat) (tval epc : Word) (s : State) :
    (trapEntry isInt cause tval epc s).asidCache = s.asidCache := by
  unfold trapEntry; split <;> rfl

@[simp] theorem trapEntry_mem (isInt : Bool) (cause : Nat) (tval epc : Word) (s : State) :
    (trapEntry isInt cause tval epc s).mem = s.mem := by
  unfold trapEntry; split <;> rfl

@[simp] theorem trapEntry_bus (isInt : Bool) (cause : Nat) (tval epc : Word) (s : State) :
    (trapEntry isInt cause tval epc s).bus = s.bus := by
  unfold trapEntry; split <;> rfl

@[simp] theorem trapEntry_busCalls (isInt : Bool) (cause : Nat) (tval epc : Word) (s : State) :
    (trapEntry isInt cause tval epc s).busCalls = s.busCalls := by
  unfold trapEntry; split <;> rfl

@[simp] theorem trapEntry_rawInst (isInt : Bool) (cause : Nat) (tval epc : Word) (s : State) :
    (trapEntry isInt cause tval epc s).rawInst = s.rawInst := by
  unfold trapEntry; split <;> rfl

/-- The step's result after trap entry (40_step.md R240). -/
@[simp] theorem trapEntry_result (isInt : Bool) (cause : Nat) (tval epc : Word) (s : State) :
    (trapEntry isInt cause tval epc s).result = .trap (causeWord isInt cause) := by
  unfold trapEntry; split <;> rfl

/-- Where trap entry goes: the destination privilege (60_exceptions.md R502, R503). -/
@[simp] theorem trapEntry_priv (isInt : Bool) (cause : Nat) (tval epc : Word) (s : State) :
    (trapEntry isInt cause tval epc s).priv = destPriv isInt cause s := by
  unfold trapEntry destPriv; split <;> rename_i h <;> revert h <;> split <;> simp

/-! ### Reading registers -/

/-- "Reading x[0] returns 0" (10_state.md R20). -/
@[simp] theorem State.reg_zero (s : State) : s.reg 0#5 = 0#32 := by simp [State.reg]

/-- Reads see only the register file. -/
theorem State.reg_congr {s t : State} (h : t.x = s.x) (r : Reg) : t.reg r = s.reg r := by
  simp [State.reg, h]

theorem regIndex_inj {r q : Reg} (hr : ¬ r = 0#5) (hq : ¬ q = 0#5) (h : regIndex r hr = regIndex q hq) : r = q := by
  have h : r.toNat - 1 = q.toNat - 1 := congrArg Fin.val h
  have h1 : r.toNat ≠ 0 := fun e => hr (BitVec.eq_of_toNat_eq e)
  have h2 : q.toNat ≠ 0 := fun e => hq (BitVec.eq_of_toNat_eq e)
  exact BitVec.eq_of_toNat_eq (by omega)

/-- A register read after a register write (10_state.md R20, R21). -/
theorem State.reg_setReg (s : State) (r q : Reg) (v : Word) :
    (s.setReg r v).reg q = if q = 0#5 then 0#32 else if q = r then v else s.reg q := by
  by_cases hq : q = 0#5
  · simp [hq]
  by_cases hr : r = 0#5
  · have : q ≠ r := fun h => hq (h.trans hr)
    simp [State.setReg, hr, hq]
  by_cases h : q = r
  · subst h; simp [State.setReg, State.reg, hq]
  · have hne : regIndex r hr ≠ regIndex q hq := fun e => h (regIndex_inj hr hq e).symm
    have hv : ¬ (regIndex r hr).val = (regIndex q hq).val := fun e => hne (Fin.ext e)
    simp [State.setReg, State.reg, hq, hr, h, Vector.getElem_set_ne, hv]

/-- "x[0] <- v has no effect" (10_state.md R21). -/
@[simp] theorem State.setReg_zero (s : State) (v : Word) : s.setReg 0#5 v = s := by simp [State.setReg]

@[simp] theorem State.setNextPc_reg (s : State) (v : Word) (r : Reg) : (s.setNextPc v).reg r = s.reg r := rfl
@[simp] theorem busPut_reg (s : State) (pa : PAddr) (n : Nat) (v : Word) (r : Reg) :
    (busPut s pa n v).reg r = s.reg r := rfl
@[simp] theorem busAfter_reg (s : State) (op : BusOp) (pa : PAddr) (n : Nat) (r : Reg) :
    (busAfter s op pa n).reg r = s.reg r := State.reg_congr (busAfter_x s op pa n) r
@[simp] theorem arm_reg (f : Fetched) (s : State) (r : Reg) : (arm f s).reg r = s.reg r := rfl
@[simp] theorem commitPc_reg (s : State) (r : Reg) : (commitPc s).reg r = s.reg r := rfl

end Sys2Proof.Machine
end

