-- ==== Sys2Proof/Laws/Memory.lean ====
section
/-! SUPPORT. The laws of the byte memory: reading after writing, the canonical form, and little-endian values. -/

namespace Sys2Proof.Machine

/-- Every listed address of m lies above k. -/
def Memory.above (k : Nat) (m : Memory) : Prop := ∀ c ∈ m, k < c.1

theorem Memory.wf_cons {k : Nat} {v : Byte} {m : Memory} :
    Memory.wf ((k, v) :: m) = true ↔ v ≠ unlistedByte ∧ Memory.above k m ∧ m.wf = true := by
  simp [Memory.wf, Memory.above, and_assoc]

theorem Memory.read_above {k a : Nat} {m : Memory} (h : Memory.above k m) (ha : a ≤ k) :
    m.read a = unlistedByte := by
  induction m with
  | nil => rfl
  | cons c m ih =>
    obtain ⟨k', v⟩ := c
    have h1 : k < k' := h (k', v) (by simp)
    have h2 : Memory.above k m := fun c hc => h c (by simp [hc])
    simp only [Memory.read]
    rw [if_neg (by omega)]
    exact ih h2

theorem Memory.above_write {k a : Nat} {m : Memory} {b : Byte} (h : Memory.above k m) (ha : k < a) :
    Memory.above k (m.write a b) := by
  induction m with
  | nil =>
    simp only [Memory.write]; split
    · exact h
    · intro c hc; simp at hc; subst hc; exact ha
  | cons c m ih =>
    obtain ⟨k', v⟩ := c
    have h1 : k < k' := h (k', v) (by simp)
    have h2 : Memory.above k m := fun c hc => h c (by simp [hc])
    have hcons : ∀ (x : Nat × Byte) (l : Memory), k < x.1 → Memory.above k l → Memory.above k (x :: l) := by
      intro x l hx hl c hc
      rcases List.mem_cons.1 hc with rfl | hc
      · exact hx
      · exact hl c hc
    simp only [Memory.write]
    split
    · split
      · exact h
      · exact hcons _ _ ha h
    · split
      · split
        · exact h2
        · exact hcons _ _ ha h2
      · exact hcons _ _ h1 (ih h2)

/-- A write keeps the canonical form. -/
theorem Memory.wf_write {m : Memory} (a : Nat) (b : Byte) (h : m.wf = true) : (m.write a b).wf = true := by
  induction m with
  | nil => simp only [Memory.write]; split <;> simp_all [Memory.wf]
  | cons c m ih =>
    obtain ⟨k, v⟩ := c
    obtain ⟨hv, hab, hm⟩ := Memory.wf_cons.1 h
    simp only [Memory.write]
    split
    · rename_i hlt
      split
      · exact h
      · rename_i hb
        refine Memory.wf_cons.2 ⟨hb, ?_, h⟩
        intro c hc
        rcases List.mem_cons.1 hc with rfl | hc
        · exact hlt
        · exact Nat.lt_trans hlt (hab c hc)
    · split
      · rename_i he
        split
        · exact hm
        · rename_i hb; exact Memory.wf_cons.2 ⟨hb, by subst he; exact hab, hm⟩
      · rename_i hlt hne
        exact Memory.wf_cons.2 ⟨hv, Memory.above_write hab (by omega), ih hm⟩

/-- Reading a byte after writing one, in a memory in canonical form. -/
theorem Memory.read_write {m : Memory} (h : m.wf = true) (a c : Nat) (b : Byte) :
    (m.write a b).read c = if c = a then b else m.read c := by
  induction m with
  | nil =>
    simp only [Memory.write]
    split <;> rename_i hb <;> simp only [Memory.read]
    split <;> simp_all
  | cons x m ih =>
    obtain ⟨k, v⟩ := x
    obtain ⟨hv, hab, hm⟩ := Memory.wf_cons.1 h
    simp only [Memory.write]
    split
    · rename_i hlt
      split
      · rename_i hb
        split
        · rename_i hc; subst hc
          simp only [Memory.read]
          rw [if_neg (by omega), Memory.read_above hab (by omega), hb]
        · rfl
      · simp only [Memory.read]
    · split
      · rename_i he; subst he
        split
        · rename_i hb
          by_cases hc : c = a
          · subst hc; simp [Memory.read_above hab (Nat.le_refl _), hb]
          · simp [Memory.read, hc]
        · by_cases hc : c = a <;> simp [Memory.read, hc]
      · rename_i hlt hne
        simp only [Memory.read, ih hm]
        by_cases hk : c = k
        · have : c ≠ a := by omega
          simp [hk]
          intro; omega
        · simp [hk]

/-- A little-endian write keeps the canonical form. -/
theorem Memory.wf_writeLE {m : Memory} (a n : Nat) (v : Word) (h : m.wf = true) : (m.writeLE a n v).wf = true := by
  induction n generalizing m a v with
  | zero => exact h
  | succ n ih => exact ih _ _ (Memory.wf_write _ _ h)

/-- Reading a byte after a little-endian write: the bytes written, lowest first (20_memory.md R104), and every other byte
as before. -/
theorem Memory.read_writeLE {m : Memory} (h : m.wf = true) (a n c : Nat) (v : Word) :
    (m.writeLE a n v).read c = if a ≤ c ∧ c < a + n then (v >>> (8 * (c - a))).setWidth 8 else m.read c := by
  induction n generalizing m a v with
  | zero => simp only [Memory.writeLE]; rw [if_neg (by omega)]
  | succ n ih =>
    simp only [Memory.writeLE]
    rw [ih (Memory.wf_write _ _ h), Memory.read_write h]
    by_cases h1 : a + 1 ≤ c ∧ c < a + 1 + n
    · rw [if_pos h1, if_pos (by omega)]
      have : 8 * (c - a) = 8 + 8 * (c - (a + 1)) := by omega
      rw [this, BitVec.shiftRight_add]
    · rw [if_neg h1]
      by_cases h2 : c = a
      · subst h2; simp
      · rw [if_neg h2, if_neg (by omega)]

/-- A byte outside a little-endian write reads as before. -/
theorem Memory.read_writeLE_other {m : Memory} (h : m.wf = true) {a n c : Nat} (v : Word)
    (hc : c < a ∨ a + n ≤ c) : (m.writeLE a n v).read c = m.read c := by
  rw [Memory.read_writeLE h, if_neg (by omega)]

/-- Two memories in canonical form that read alike are the same list. -/
theorem Memory.ext {m m' : Memory} (h : m.wf = true) (h' : m'.wf = true) (he : ∀ a, m.read a = m'.read a) :
    m = m' := by
  induction m generalizing m' with
  | nil =>
    cases m' with
    | nil => rfl
    | cons c m' =>
      obtain ⟨k, v⟩ := c
      have := he k
      simp only [Memory.read] at this
      exact absurd this.symm (by simpa using (Memory.wf_cons.1 h').1)
  | cons c m ih =>
    obtain ⟨k, v⟩ := c
    obtain ⟨hv, hab, hm⟩ := Memory.wf_cons.1 h
    cases m' with
    | nil => have := he k; simp only [Memory.read, if_true] at this; exact absurd this hv
    | cons c' m' =>
      obtain ⟨k', v'⟩ := c'
      obtain ⟨hv', hab', hm'⟩ := Memory.wf_cons.1 h'
      have hkk : k = k' := by
        rcases Nat.lt_trichotomy k k' with hl | hl | hl
        · have := he k
          simp only [Memory.read, if_true] at this
          rw [if_neg (by omega), Memory.read_above hab' (by omega)] at this
          exact absurd this hv
        · exact hl
        · have := he k'
          simp only [Memory.read, if_true] at this
          rw [if_neg (by omega), Memory.read_above hab (by omega)] at this
          exact absurd this.symm hv'
      subst hkk
      have hvv : v = v' := by simpa [Memory.read] using he k
      subst hvv
      congr 1
      refine ih hm hm' fun a => ?_
      have := he a
      simp only [Memory.read] at this
      by_cases ha : a = k
      · subst ha; rw [Memory.read_above hab (Nat.le_refl _), Memory.read_above hab' (Nat.le_refl _)]
      · simpa [ha] using this

end Sys2Proof.Machine
end

