-- ==== Sys2Proof/Laws/Access.lean ====
section
/-! SUPPORT. For each operation of translation and memory access, what it can answer and what it can have changed. -/

namespace Sys2Proof.Machine

/-- The state an operation leaves, when it completes and when it raises, has property P. -/
def Res.After {α : Type} (P : State → Prop) : Res α → Prop
  | .ok _ t => P t
  | .raise _ _ t => P t
  | .refuse _ => True

theorem Res.After.mono {α : Type} {P Q : State → Prop} {m : Res α} (h : m.After P) (hpq : ∀ t, P t → Q t) :
    m.After Q := by
  cases m <;> simp_all [Res.After]

theorem Res.After.bind {α β : Type} {P Q : State → Prop} {m : Res α} {f : α → State → Res β} (h : m.After P)
    (hpq : ∀ t, P t → Q t) (hf : ∀ a t, P t → (f a t).After Q) : (m.bind f).After Q := by
  cases m with
  | ok a t => exact hf a t h
  | raise e v t => exact hpq t h
  | refuse r => trivial

/-- A completed sequence: both parts completed. -/
theorem Res.bind_eq_ok {α β : Type} {m : Res α} {f : α → State → Res β} {b : β} {t : State} :
    m.bind f = .ok b t ↔ ∃ a u, m = .ok a u ∧ f a u = .ok b t := by
  cases m <;> simp [Res.bind]

/-- A sequence that raised: its first part did, or the second after the first completed. -/
theorem Res.bind_eq_raise {α β : Type} {m : Res α} {f : α → State → Res β} {e : Exc} {v : Word} {t : State} :
    m.bind f = .raise e v t ↔ m = .raise e v t ∨ ∃ a u, m = .ok a u ∧ f a u = .raise e v t := by
  cases m <;> simp [Res.bind]

/-- A sequence that was refused: its first part was, or the second after the first completed. -/
theorem Res.bind_eq_refuse {α β : Type} {m : Res α} {f : α → State → Res β} {r : Refusal} :
    m.bind f = .refuse r ↔ m = .refuse r ∨ ∃ a u, m = .ok a u ∧ f a u = .refuse r := by
  cases m <;> simp [Res.bind]

/-! ### What stays the same -/

theorem TranslationOnly.refl (s : State) : TranslationOnly s s := rfl

theorem TranslationOnly.trans {s t u : State} (h : TranslationOnly s t) (h' : TranslationOnly t u) : TranslationOnly s u := by
  rw [TranslationOnly] at *; rw [h', h]

theorem AccessOnly.refl (s : State) : AccessOnly s s := rfl

theorem AccessOnly.trans {s t u : State} (h : AccessOnly s t) (h' : AccessOnly t u) : AccessOnly s u := by
  rw [AccessOnly] at *; rw [h', h]

theorem TranslationOnly.toMem {s t : State} (h : TranslationOnly s t) : AccessOnly s t := by
  rw [TranslationOnly] at h; rw [AccessOnly, h]

theorem BusOnly.refl (s : State) : BusOnly s s := rfl

theorem BusOnly.trans {s t u : State} (h : BusOnly s t) (h' : BusOnly t u) : BusOnly s u := by
  rw [BusOnly] at *; rw [h', h]

theorem BusOnly.toTranslation {s t : State} (h : BusOnly s t) : TranslationOnly s t := by
  rw [BusOnly] at h; rw [TranslationOnly, h]

/-- What a translation cannot have changed, field by field. -/
theorem TranslationOnly.fields {s t : State} (h : TranslationOnly s t) :
    t.x = s.x ∧ t.pc = s.pc ∧ t.nextPc = s.nextPc ∧ t.priv = s.priv ∧ t.csr = s.csr ∧ t.resv = s.resv
      ∧ t.asidCache = s.asidCache ∧ t.mem = s.mem ∧ t.result = s.result ∧ t.rawInst = s.rawInst ∧ t.bus = s.bus := by
  rw [TranslationOnly] at h; rw [h]; simp

/-- What a memory access cannot have changed, field by field. -/
theorem AccessOnly.fields {s t : State} (h : AccessOnly s t) :
    t.x = s.x ∧ t.pc = s.pc ∧ t.nextPc = s.nextPc ∧ t.priv = s.priv ∧ t.csr = s.csr ∧ t.resv = s.resv
      ∧ t.asidCache = s.asidCache ∧ t.result = s.result ∧ t.rawInst = s.rawInst ∧ t.bus = s.bus := by
  rw [AccessOnly] at h; rw [h]; simp

/-! ### Bus calls -/

/-- A byte below other bits, as a word. -/
theorem low_or_high {w : Nat} (lo : Byte) (hi : BitVec w) :
    lo.setWidth 32 ||| (hi.setWidth 32 <<< 8) = (hi ++ lo).setWidth 32 := by
  apply BitVec.eq_of_getLsbD_eq
  intro i hi'
  simp only [BitVec.getLsbD_or, BitVec.getLsbD_shiftLeft, BitVec.getLsbD_setWidth, BitVec.getLsbD_append]
  by_cases h : i < 8
  · simp [h, hi']
  · simp [h, hi', BitVec.getLsbD_of_ge lo i (by omega), show i - 8 < 32 by omega]

/-- A little-endian value is the bytes written out (20_memory.md R104). -/
theorem bytesAt_eq_readLE (m : Memory) (a : Nat) {n : Nat} (hn : n = 1 ∨ n = 2 ∨ n = 4) :
    bytesAt m a n = m.readLE a n := by
  have one : ∀ a, m.readLE a 1 = (m.read a).setWidth 32 := fun a => by simp [Memory.readLE]
  have two : ∀ a, m.readLE a 2 = (halfAt m a).setWidth 32 := fun a => by
    rw [halfAt, ← low_or_high, ← one (a + 1)]; rfl
  rcases hn with rfl | rfl | rfl
  · exact (one a).symm
  · exact (two a).symm
  · have three : ∀ a, m.readLE a 3 = ((m.read (a + 2) ++ m.read (a + 1)) ++ m.read a).setWidth 32 := fun a => by
      rw [← low_or_high, ← halfAt, ← two]; rfl
    have four : m.readLE a 4 = (m.read a).setWidth 32 ||| (m.readLE (a + 1) 3 <<< 8) := rfl
    rw [four, three, low_or_high]
    apply BitVec.eq_of_getLsbD_eq; intro i hi
    simp only [bytesAt, wordAt, BitVec.getLsbD_setWidth, BitVec.getLsbD_append, Nat.add_assoc]
    by_cases h : i < 8
    · simp [h, hi]
    · by_cases h2 : i - 8 < 8 <;> simp [h, hi, h2]
/-- A bus call changes nothing but memory and the count of oracle calls. -/
theorem busAfter_accessOnly (s : State) (op : BusOp) (pa : PAddr) (n : Nat) : AccessOnly s (busAfter s op pa n) := by
  unfold busAfter; repeat' split
  all_goals rfl

/-- A bus read changes nothing but the count of oracle calls. -/
theorem busAfter_read (s : State) (pa : PAddr) (n : Nat) : BusOnly s (busAfter s .read pa n) := by
  unfold busAfter; split <;> rfl

/-- A rejected bus call changes nothing but the count of oracle calls. -/
theorem busAfter_rejected {s : State} {op : BusOp} {pa : PAddr} {n : Nat} (h : (busAnswer s op pa n).status ≠ .ok) :
    BusOnly s (busAfter s op pa n) := by
  unfold busAfter; unfold busAnswer at h
  split <;> rename_i hk <;> simp only [hk] at h
  · split
    · rfl
    · simp [h]
  · rfl
  · rfl

/-- A call that no oracle answers is not counted. -/
theorem busAfter_busCalls {s : State} {op : BusOp} {pa : PAddr} {n : Nat}
    (h : servedBy s.bus pa.toNat n ≠ some .oracle) : (busAfter s op pa n).busCalls = s.busCalls := by
  unfold busAfter
  split
  · split
    · rfl
    · split <;> rfl
  · contradiction
  · rfl

/-- An accepted write: memory stores it, an oracle counts it. -/
theorem busAfter_write {s : State} {v : Word} {pa : PAddr} {n : Nat} (h : (busAnswer s (.write v) pa n).status = .ok) :
    busAfter s (.write v) pa n =
      if servedBy s.bus pa.toNat n = some .oracle then { s with busCalls := s.busCalls + 1 } else busPut s pa n v := by
  unfold busAfter; unfold busAnswer at h
  split <;> rename_i hk <;> simp only [hk] at h
  · simp [h, hk]
  · simp [hk]
  · split at h <;> cases h

/-- The data of an accepted read (20_memory.md R101, R104). -/
theorem busAnswer_data {s : State} {pa : PAddr} {n : Nat} (h : (busAnswer s .read pa n).status = .ok)
    (hn : n = 1 ∨ n = 2 ∨ n = 4) : (busAnswer s .read pa n).data = readData s pa n := by
  unfold readData; unfold busAnswer at *
  split <;> rename_i hk <;> simp only [hk] at h
  · simp [hk, bytesAt_eq_readLE _ _ hn]
  · simp [hk]
  · split at h <;> cases h

/-- A bus call keeps memory in its canonical form. -/
theorem busAfter_wf {s : State} (op : BusOp) (pa : PAddr) (n : Nat) (hs : s.mem.wf = true) :
    (busAfter s op pa n).mem.wf = true := by
  unfold busAfter
  split
  · split
    · exact hs
    · split
      · exact Memory.wf_writeLE _ _ _ hs
      · exact hs
  · exact hs
  · exact hs

/-! ### The walk -/

/-- A page-table read answers the word or an access fault (21_mmu_tlb.md R156). -/
theorem readPte_cases (pa : PAddr) (kind : Access) (va : Word) (s : State) :
    ((busAnswer s .read pa 4).status = .ok
        ∧ readPte pa kind va s = .ok (busAnswer s .read pa 4).data (busAfter s .read pa 4))
      ∨ ((busAnswer s .read pa 4).status ≠ .ok
        ∧ readPte pa kind va s = .raise (accessExc kind) va (busAfter s .read pa 4)) := by
  unfold readPte; cases h : (busAnswer s .read pa 4).status <;> simp [h]

/-- The walk answers a leaf, a page fault or an access fault, with the virtual address as trap value, and changes nothing
but by its bus calls (21_mmu_tlb.md R155 to R158, R171). -/
theorem walk_cases (va : Word) (kind : Access) (s : State) :
    ∃ u, BusOnly s u ∧ ((∃ pte level, walk va kind s = .ok (pte, level) u)
      ∨ walk va kind s = .raise (pageExc kind) va u ∨ walk va kind s = .raise (accessExc kind) va u) := by
  unfold walk
  have h1 := busAfter_read s (pteAddr (satpPpn s.csr.satp) (vpn1 va)) 4
  rcases readPte_cases (pteAddr (satpPpn s.csr.satp) (vpn1 va)) kind va s with ⟨-, h⟩ | ⟨-, h⟩
  · rw [h]; simp only [Res.bind]
    split
    · exact ⟨_, h1, by simp⟩
    · split
      · split
        · exact ⟨_, h1, by simp⟩
        · exact ⟨_, h1, by simp [misalignedLeaf, Config.misalignedSuperpage]⟩
      · unfold walkLevel0
        have h0 := h1.trans (busAfter_read _ (pteAddr (ptePpn (busAnswer s .read
          (pteAddr (satpPpn s.csr.satp) (vpn1 va)) 4).data) (vpn0 va)) 4)
        refine ⟨_, h0, ?_⟩
        rcases readPte_cases (pteAddr (ptePpn (busAnswer s .read (pteAddr (satpPpn s.csr.satp) (vpn1 va)) 4).data)
          (vpn0 va)) kind va (busAfter s .read (pteAddr (satpPpn s.csr.satp) (vpn1 va)) 4) with ⟨-, h'⟩ | ⟨-, h'⟩
        · rw [h']; simp only [Res.bind]; split <;> simp
        · rw [h']; simp [Res.bind]
  · rw [h]; exact ⟨_, h1, by simp [Res.bind]⟩

/-! ### Translation -/

theorem hitSuper_translationOnly {va : Word} {s t : State} {e : TlbEntry} (h : hitSuper va s = some (e, t)) :
    TranslationOnly s t := by
  unfold hitSuper at h; split at h
  · simp only [Option.some.injEq, Prod.mk.injEq] at h; obtain ⟨-, rfl⟩ := h; rfl
  · cases h

theorem hitBase_translationOnly {va : Word} {kind : Access} {s t : State} {e : TlbEntry}
    (h : hitBase va kind s = some (e, t)) : TranslationOnly s t := by
  unfold hitBase at h
  cases kind <;> simp only [Option.map_eq_some_iff] at h <;> obtain ⟨⟨e', t'⟩, -, h⟩ := h <;>
    simp only [Prod.mk.injEq] at h <;> obtain ⟨-, rfl⟩ := h <;> rfl

theorem insertEntry_translationOnly (va pte : Word) (level : PageLevel) (kind : Access) (s : State) :
    TranslationOnly s (insertEntry va pte level kind s) := by
  cases level <;> cases kind <;> rfl

theorem checkedAddr_cases (e : TlbEntry) (va : Word) (kind : Access) (eff : Priv) (s : State) :
    checkedAddr e va kind eff s = .ok (physAddr e va) s ∨ checkedAddr e va kind eff s = .raise (pageExc kind) va s := by
  unfold checkedAddr; split <;> simp

/-- Translation answers an address, a page fault or an access fault of the access kind, with the virtual address as trap
value; it changes nothing but the three TLB tables and the count of oracle calls, and it is never refused (21_mmu_tlb.md R146, R157, R171). -/
theorem translate_cases (va : Word) (kind : Access) (s : State) :
    (∃ pa t, translate va kind s = .ok pa t ∧ TranslationOnly s t)
      ∨ (∃ e t, translate va kind s = .raise e va t ∧ (e = pageExc kind ∨ e = accessExc kind) ∧ TranslationOnly s t) := by
  have check : ∀ (e : TlbEntry) (eff : Priv) (t : State), TranslationOnly s t →
      (∃ pa u, checkedAddr e va kind eff t = .ok pa u ∧ TranslationOnly s u)
        ∨ (∃ x u, checkedAddr e va kind eff t = .raise x va u ∧ (x = pageExc kind ∨ x = accessExc kind)
            ∧ TranslationOnly s u) := by
    intro e eff t ht
    rcases checkedAddr_cases e va kind eff t with h | h
    · exact .inl ⟨_, _, h, ht⟩
    · exact .inr ⟨_, _, h, .inl rfl, ht⟩
  unfold translate
  split
  · exact .inl ⟨_, _, rfl, rfl⟩
  · dsimp only
    split
    · rename_i h; exact check _ _ _ (hitSuper_translationOnly h)
    · split
      · rename_i h; exact check _ _ _ (hitBase_translationOnly h)
      · obtain ⟨w, hw, ⟨pte, level, h⟩ | h | h⟩ := walk_cases va kind s <;> rw [h] <;> simp only [Res.bind]
        · exact check _ _ _ (hw.toTranslation.trans (insertEntry_translationOnly va pte level kind w))
        · exact .inr ⟨_, _, rfl, .inl rfl, hw.toTranslation⟩
        · exact .inr ⟨_, _, rfl, .inr rfl, hw.toTranslation⟩

theorem translate_after (va : Word) (kind : Access) (s : State) : (translate va kind s).After (TranslationOnly s) := by
  rcases translate_cases va kind s with ⟨pa, t, h, ht⟩ | ⟨e, t, h, -, ht⟩ <;> rw [h] <;> exact ht

/-! ### Parts -/

/-- A bus read answers the data or the exception its status folds into (20_memory.md R103). -/
theorem busRead_cases (kind : Access) (va : Word) (pa : PAddr) (w : Width) (s : State) :
    ((busAnswer s .read pa w.bytes).status = .ok
        ∧ busRead kind va pa w s = .ok (busAnswer s .read pa w.bytes).data (busAfter s .read pa w.bytes))
      ∨ ((busAnswer s .read pa w.bytes).status ≠ .ok
        ∧ busRead kind va pa w s = .raise (if (busAnswer s .read pa w.bytes).status = .align then misalignedExc kind
            else accessExc kind) va (busAfter s .read pa w.bytes)) := by
  unfold busRead; cases h : (busAnswer s .read pa w.bytes).status <;> simp [busClass, h]

/-- A bus write stores or raises the exception its status folds into (20_memory.md R103). -/
theorem busWrite_cases (va : Word) (pa : PAddr) (w : Width) (v : Word) (s : State) :
    ((busAnswer s (.write v) pa w.bytes).status = .ok
        ∧ busWrite va pa w v s = .ok () (busAfter s (.write v) pa w.bytes))
      ∨ ((busAnswer s (.write v) pa w.bytes).status ≠ .ok
        ∧ busWrite va pa w v s = .raise (if (busAnswer s (.write v) pa w.bytes).status = .align then misalignedExc .W
            else accessExc .W) va (busAfter s (.write v) pa w.bytes)) := by
  unfold busWrite; cases h : (busAnswer s (.write v) pa w.bytes).status <;> simp [busClass]

/-- A part of a read changes nothing but the TLB and the count of oracle calls, and is never refused. -/
theorem readPart_cases (a : Word) (w : Width) (kind : Access) (s : State) :
    (∃ pa t, translate a kind s = .ok pa t ∧ (busAnswer t .read pa w.bytes).status = .ok ∧ TranslationOnly s t
        ∧ readPart a w kind s = .ok (busAnswer t .read pa w.bytes).data (busAfter t .read pa w.bytes))
      ∨ (∃ e t, readPart a w kind s = .raise e a t ∧ TranslationOnly s t) := by
  unfold readPart
  rcases translate_cases a kind s with ⟨pa, t, h, ht⟩ | ⟨e, t, h, -, ht⟩ <;> rw [h] <;> simp only [Res.bind]
  · rcases busRead_cases kind a pa w t with ⟨hb, h'⟩ | ⟨-, h'⟩ <;> rw [h']
    · exact .inl ⟨pa, t, rfl, hb, ht, rfl⟩
    · exact .inr ⟨_, _, rfl, ht.trans (busAfter_read t pa w.bytes).toTranslation⟩
  · exact .inr ⟨e, t, rfl, ht⟩

/-- A part of a write stores at the translated address, or raises with memory as it was; it is never refused. -/
theorem writePart_cases (a : Word) (w : Width) (v : Word) (s : State) :
    (∃ pa t, translate a .W s = .ok pa t ∧ (busAnswer t (.write v) pa w.bytes).status = .ok ∧ TranslationOnly s t
        ∧ writePart a w v s = .ok () (busAfter t (.write v) pa w.bytes))
      ∨ (∃ e t, writePart a w v s = .raise e a t ∧ TranslationOnly s t) := by
  unfold writePart
  rcases translate_cases a .W s with ⟨pa, t, h, ht⟩ | ⟨e, t, h, -, ht⟩ <;> rw [h] <;> simp only [Res.bind]
  · rcases busWrite_cases a pa w v t with ⟨hb, h'⟩ | ⟨hb, h'⟩ <;> rw [h']
    · exact .inl ⟨pa, t, rfl, hb, ht, rfl⟩
    · exact .inr ⟨_, _, rfl, ht.trans (busAfter_rejected hb).toTranslation⟩
  · exact .inr ⟨e, t, rfl, ht⟩

theorem readPart_after (a : Word) (w : Width) (kind : Access) (s : State) :
    (readPart a w kind s).After (TranslationOnly s) := by
  rcases readPart_cases a w kind s with ⟨pa, t, -, -, ht, h⟩ | ⟨e, t, h, ht⟩ <;> rw [h]
  · exact ht.trans (busAfter_read t pa w.bytes).toTranslation
  · exact ht

theorem writePart_after (a : Word) (w : Width) (v : Word) (s : State) :
    (writePart a w v s).After (AccessOnly s) := by
  rcases writePart_cases a w v s with ⟨pa, t, -, -, ht, h⟩ | ⟨e, t, h, ht⟩ <;> rw [h]
  · exact ht.toMem.trans (busAfter_accessOnly _ _ _ _)
  · exact ht.toMem

/-- A part of a write keeps memory in its canonical form. -/
theorem writePart_wf (a : Word) (w : Width) (v : Word) {s : State} (hs : s.mem.wf = true) :
    (writePart a w v s).After (fun t => t.mem.wf = true) := by
  rcases writePart_cases a w v s with ⟨pa, t, -, -, ht, h⟩ | ⟨e, t, h, ht⟩ <;> rw [h] <;> simp only [Res.After]
  · exact busAfter_wf _ _ _ (ht.fields.2.2.2.2.2.2.2.1 ▸ hs)
  · exact ht.fields.2.2.2.2.2.2.2.1 ▸ hs

/-- A part whose translation the bus accepts reads the data of the bus (20_memory.md R110). -/
theorem readPart_ok {a : Word} {w : Width} {kind : Access} {s u : State} {pa : PAddr}
    (h : translate a kind s = .ok pa u) (hs : (busAnswer u .read pa w.bytes).status = .ok) :
    readPart a w kind s = .ok (readData u pa w.bytes) (busAfter u .read pa w.bytes) := by
  unfold readPart; rw [h]; simp only [Res.bind]
  rcases busRead_cases kind a pa w u with ⟨-, h'⟩ | ⟨h', -⟩
  · rw [h', busAnswer_data hs (by cases w <;> simp [Width.bytes])]
  · exact absurd hs h'

/-- A part that the bus rejects raises the exception its status folds into (20_memory.md R103, R110). -/
theorem readPart_rejected {a : Word} {w : Width} {kind : Access} {s u : State} {pa : PAddr}
    (h : translate a kind s = .ok pa u) (hs : (busAnswer u .read pa w.bytes).status ≠ .ok) :
    readPart a w kind s = .raise (if (busAnswer u .read pa w.bytes).status = .align then misalignedExc kind
      else accessExc kind) a (busAfter u .read pa w.bytes) := by
  unfold readPart; rw [h]; simp only [Res.bind]
  rcases busRead_cases kind a pa w u with ⟨h', -⟩ | ⟨-, h'⟩
  · exact absurd h' hs
  · exact h'

/-- Memory that covers a range serves an access of the whole range. -/
theorem RamCovers.served {m : BusMap} {a n : Nat} (h : RamCovers m a n) (hn : 0 < n) :
    ∃ lax, servedBy m a n = some (.ram lax) := by
  have := h 0 hn
  simp only [Nat.add_zero, Option.any_eq_true, Bool.and_eq_true, bne_iff_ne, decide_eq_true_eq] at this
  obtain ⟨r, hr, hk, hl⟩ := this
  unfold servedBy; rw [hr]; simp only [if_pos hl]
  cases h : r.kind with
  | ram l => exact ⟨l, rfl⟩
  | oracle => exact absurd h hk

/-- An aligned read of memory is accepted, changes nothing and brings the bytes (20_memory.md R104, R105). -/
theorem RamCovers.read {u : State} {pa : PAddr} {n : Nat} (hn : n = 1 ∨ n = 2 ∨ n = 4)
    (h : RamCovers u.bus pa.toNat n) (ha : pa.toNat % n = 0) :
    (busAnswer u .read pa n).status = .ok ∧ busAfter u .read pa n = u
      ∧ readData u pa n = bytesAt u.mem pa.toNat n := by
  obtain ⟨l, hl⟩ := h.served (by omega)
  refine ⟨?_, ?_, ?_⟩
  · unfold busAnswer; rw [hl]; simp only [ramStatus, ha]; simp; omega
  · unfold busAfter; rw [hl]
  · unfold readData; rw [hl]; simp

/-! ### Memory access -/

/-- A read changes nothing but the TLB and the count of oracle calls (20_memory.md R110). -/
theorem memRead_after (a : Word) (w : Width) (kind : Access) (s : State) :
    (memRead a w kind s).After (TranslationOnly s) := by
  unfold memRead; split
  · exact readPart_after a w kind s
  · refine (readPart_after a _ kind s).bind (fun _ h => h) fun d t ht => ?_
    refine ((readPart_after _ _ kind t).mono fun _ h => ht.trans h).bind (fun _ h => h) fun _ _ h => ?_
    exact h
  · trivial

/-- A write changes nothing but memory and the TLB (20_memory.md R111). -/
theorem memWrite_after (a : Word) (w : Width) (v : Word) (s : State) :
    (memWrite a w v s).After (AccessOnly s) := by
  unfold memWrite; split
  · exact writePart_after a w v s
  · exact (writePart_after a _ v s).bind (fun _ h => h) fun d t ht =>
      (writePart_after _ _ _ t).mono fun _ h => ht.trans h
  · trivial

/-- A write keeps memory in its canonical form, whether it completes or raises (20_memory.md R109, R111). -/
theorem memWrite_wf (a : Word) (w : Width) (v : Word) {s : State} (hs : s.mem.wf = true) :
    (memWrite a w v s).After (fun t => t.mem.wf = true) := by
  unfold memWrite; split
  · exact writePart_wf a w v hs
  · exact (writePart_wf a _ v hs).bind (fun _ h => h) fun d t ht => writePart_wf _ _ _ ht
  · trivial

/-- A read is refused exactly where the access has a 3-byte part (20_memory.md R108). -/
theorem memRead_refuse (a : Word) (w : Width) (kind : Access) (s : State) (r : Refusal) :
    memRead a w kind s = .refuse r ↔ partsOf a w = .threeByte ∧ r = .threeBytePart := by
  unfold memRead
  split <;> rename_i h <;> rw [h]
  · rcases readPart_cases a w kind s with ⟨pa, t, -, -, -, h⟩ | ⟨e, t, h, -⟩ <;> rw [h] <;> simp
  · rename_i p
    simp only [Res.bind_eq_refuse]
    rcases readPart_cases a p kind s with ⟨pa, t, -, -, -, h⟩ | ⟨e, t, h, -⟩ <;> rw [h] <;> simp
    rcases readPart_cases (highPart a p) p kind (busAfter t .read pa p.bytes) with ⟨pa, t, -, -, -, h⟩ | ⟨e, t, h, -⟩ <;> rw [h] <;> simp
  · simp [eq_comm]

/-- A write is refused exactly where the access has a 3-byte part (20_memory.md R108). -/
theorem memWrite_refuse (a : Word) (w : Width) (v : Word) (s : State) (r : Refusal) :
    memWrite a w v s = .refuse r ↔ partsOf a w = .threeByte ∧ r = .threeBytePart := by
  unfold memWrite
  split <;> rename_i h <;> rw [h]
  · rcases writePart_cases a w v s with ⟨pa, t, -, -, -, h⟩ | ⟨e, t, h, -⟩ <;> rw [h] <;> simp
  · rename_i p
    simp only [Res.bind_eq_refuse]
    rcases writePart_cases a p v s with ⟨pa, t, -, -, -, h⟩ | ⟨e, t, h, -⟩ <;> rw [h] <;> simp
    rcases writePart_cases (highPart a p) p (v >>> (8 * p.bytes)) (busAfter t (.write v) pa p.bytes) with
      ⟨pa, t, -, -, -, h⟩ | ⟨e, t, h, -⟩ <;> rw [h] <;> simp
  · simp [eq_comm]

/-- Only a word access can have a 3-byte part. -/
theorem partsOf_threeByte {a : Word} {w : Width} (h : partsOf a w = .threeByte) :
    w = .word ∧ (pageOffset a = 0xFFD#12 ∨ pageOffset a = 0xFFF#12) := by
  unfold partsOf at h
  split at h
  · cases h
  · rename_i hc
    cases w <;> simp only [reduceCtorEq] at h
    split at h
    · cases h
    · rename_i hne
      simp only [Width.bytes] at hc
      refine ⟨rfl, ?_⟩
      have h2 : (pageOffset a).toNat ≠ 0xFFE := fun e => hne (BitVec.eq_of_toNat_eq e)
      have h3 := (pageOffset a).isLt
      have : (pageOffset a).toNat = 0xFFD ∨ (pageOffset a).toNat = 0xFFF := by omega
      rcases this with h | h
      · exact .inl (BitVec.eq_of_toNat_eq h)
      · exact .inr (BitVec.eq_of_toNat_eq h)

/-- A halfword at an even address lies inside one page. -/
theorem partsOf_half {a : Word} (h : a.getLsbD 0 = false) : partsOf a .half = .whole := by
  rw [BitVec.getLsbD, Nat.testBit_zero] at h
  simp only [decide_eq_false_iff_not] at h
  unfold partsOf
  rw [if_pos]
  simp only [pageOffset, Width.bytes, BitVec.extractLsb'_toNat, Nat.shiftRight_zero]
  omega

/-- A word at a multiple of 4 lies inside one page. -/
theorem partsOf_word {a : Word} (h : a.getLsbD 0 = false) (h' : a.getLsbD 1 = false) : partsOf a .word = .whole := by
  rw [BitVec.getLsbD, Nat.testBit_zero] at h
  rw [BitVec.getLsbD, Nat.testBit_succ, Nat.testBit_zero] at h'
  simp only [decide_eq_false_iff_not] at h h'
  unfold partsOf
  rw [if_pos]
  simp only [pageOffset, Width.bytes, BitVec.extractLsb'_toNat, Nat.shiftRight_zero]
  omega

end Sys2Proof.Machine
end

