-- ==== Sys2Proof/Laws/Flags.lean ====
section
/-! SUPPORT. The bits of a word after a bit write, and of `mstatus` after a write of one of its fields. -/

namespace Sys2Proof.Machine

theorem putBit_getLsbD (w : Word) {k : Nat} (b : Bool) (j : Nat) (hk : k < 32) :
    (putBit w k b).getLsbD j = if j = k then b else w.getLsbD j := by
  unfold putBit
  by_cases hj : j = k
  · subst hj; cases b <;> simp [hk]
  · have : (1#32 <<< k).getLsbD j = false := by
      rw [BitVec.getLsbD_shiftLeft]
      by_cases hlt : j < k
      · simp [hlt]
      · have : (1#32).getLsbD (j - k) = false := by
          rw [show (1#32).getLsbD (j - k) = decide (j - k = 0) by simp [BitVec.getLsbD_one]]
          simp; omega
        simp [this]
    cases b <;> simp only [Bool.false_eq_true, if_false, if_true, hj, BitVec.getLsbD_or, BitVec.getLsbD_and,
      BitVec.getLsbD_not, this, Bool.or_false, Bool.not_false, Bool.and_true]
    by_cases h32 : j < 32
    · simp [h32]
    · simp [h32, BitVec.getLsbD_of_ge w j (by omega)]

theorem putSIE_getLsbD (w : Word) (b : Bool) (j : Nat) :
    (putSIE w b).getLsbD j = if j = 1 then b else w.getLsbD j := putBit_getLsbD w b j (by decide)

theorem putMIE_getLsbD (w : Word) (b : Bool) (j : Nat) :
    (putMIE w b).getLsbD j = if j = 3 then b else w.getLsbD j := putBit_getLsbD w b j (by decide)

theorem putSPIE_getLsbD (w : Word) (b : Bool) (j : Nat) :
    (putSPIE w b).getLsbD j = if j = 5 then b else w.getLsbD j := putBit_getLsbD w b j (by decide)

theorem putMPIE_getLsbD (w : Word) (b : Bool) (j : Nat) :
    (putMPIE w b).getLsbD j = if j = 7 then b else w.getLsbD j := putBit_getLsbD w b j (by decide)

theorem putSPP_getLsbD (w : Word) (b : Bool) (j : Nat) :
    (putSPP w b).getLsbD j = if j = 8 then b else w.getLsbD j := putBit_getLsbD w b j (by decide)

theorem putMPRV_getLsbD (w : Word) (b : Bool) (j : Nat) :
    (putMPRV w b).getLsbD j = if j = 17 then b else w.getLsbD j := putBit_getLsbD w b j (by decide)

theorem putMPP_getLsbD (w : Word) (p : BitVec 2) (j : Nat) : (putMPP w p).getLsbD j =
    if j = 12 then p.getLsbD 1 else if j = 11 then p.getLsbD 0 else w.getLsbD j := by
  unfold putMPP
  rw [putBit_getLsbD _ _ _ (by decide), putBit_getLsbD _ _ _ (by decide)]

/-- MPP is its two bits. -/
theorem statusMPP_eq_iff (w : Word) (p : BitVec 2) :
    statusMPP w = p ↔ w.getLsbD 11 = p.getLsbD 0 ∧ w.getLsbD 12 = p.getLsbD 1 := by
  unfold statusMPP
  constructor
  · rintro rfl; simp
  · rintro ⟨h0, h1⟩
    refine BitVec.eq_of_getLsbD_eq fun i hi => ?_
    interval_cases i <;> simp_all

end Sys2Proof.Machine
end

