-- ==== Sys2Proof/Laws/Outcome.lean ====
section
/-! SUPPORT. For each shared operation of the meanings and of the step, one lemma that says once everything it can
answer. -/

namespace Sys2Proof.Machine

/-! ### Exceptions -/

/-- An instruction whose operations may raise ends in the state they leave, or takes the exception. -/
theorem finish_eq_next {m : Res Unit} {t : State} :
    finish m = .next t ↔ m = .ok () t ∨ ∃ e v u, m = .raise e v u ∧ t = takeException e v u := by
  cases m <;> simp [finish, eq_comm]

/-- Such an instruction is refused where they are. -/
theorem finish_eq_refused {m : Res Unit} {r : Refusal} : finish m = .refused r ↔ m = .refuse r := by
  cases m <;> simp [finish]

/-- Such an instruction never faults. -/
theorem finish_ne_fault {m : Res Unit} {f : Fault} : finish m ≠ .fault f := nomatch f

/-- No exception has the interrupt flag in its cause value (60_exceptions.md R480, R503). -/
theorem causeWord_exception (e : Exc) : causeWord false e.code = BitVec.ofNat 32 e.code := by
  cases e <;> rfl

/-! ### Loads, stores and atomics -/

/-- What a load can do (41_loads_stores.md R260). -/
theorem load_next {w : Width} {extend : Word → Word} {rd : Reg} {ea : Word} {s t : State}
    (h : load w extend rd ea s = .next t) :
    (∃ v u, memRead ea w .R s = .ok v u ∧ TranslationOnly s u ∧ t = u.setReg rd (extend v))
      ∨ (∃ e v u, memRead ea w .R s = .raise e v u ∧ TranslationOnly s u ∧ t = takeException e v u) := by
  have ha := memRead_after ea w .R s
  unfold load at h
  rcases hm : memRead ea w .R s with ⟨v, u⟩ | ⟨e, v, u⟩ | r <;> rw [hm] at h ha <;>
    simp only [Res.bind, finish, Host.Outcome.next.injEq, reduceCtorEq] at h
  · exact .inl ⟨v, u, rfl, ha, h.symm⟩
  · exact .inr ⟨e, v, u, rfl, ha, h.symm⟩

/-- What a store can do (41_loads_stores.md R260, 20_memory.md R109). -/
theorem store_next {w : Width} {v ea : Word} {s t : State} (h : store w v ea s = .next t) :
    (memWrite ea w v s = .ok () t ∧ AccessOnly s t)
      ∨ (∃ e a u, memWrite ea w v s = .raise e a u ∧ AccessOnly s u ∧ t = takeException e a u) := by
  have ha := memWrite_after ea w v s
  rcases finish_eq_next.1 h with hm | ⟨e, a, u, hm, rfl⟩ <;> rw [hm] at ha
  · exact .inl ⟨hm, ha⟩
  · exact .inr ⟨e, a, u, hm, ha, rfl⟩

/-- What LR.W can do (45_atomics.md R351, R352). -/
theorem loadReserved_next {rd : Reg} {ea : Word} {s t : State} (h : loadReserved rd ea s = .next t) :
    (∃ v u, memRead ea .word .R s = .ok v u ∧ TranslationOnly s u ∧ t = State.setReg { u with resv := some ea } rd v)
      ∨ (∃ e v u, TranslationOnly s u ∧ t = takeException e v u) := by
  have ha := memRead_after ea .word .R s
  unfold loadReserved at h
  split at h
  · rcases hm : memRead ea .word .R s with ⟨v, u⟩ | ⟨e, v, u⟩ | r <;> rw [hm] at h ha <;>
      simp only [Res.bind, finish, Host.Outcome.next.injEq, reduceCtorEq] at h
    · exact .inl ⟨v, u, rfl, ha, h.symm⟩
    · exact .inr ⟨e, v, u, ha, h.symm⟩
  · simp only [Host.Outcome.next.injEq] at h
    exact .inr ⟨_, _, s, rfl, h.symm⟩

/-- What SC.W can do (45_atomics.md R351, R353). -/
theorem storeConditional_next {rd : Reg} {v ea : Word} {s t : State} (h : storeConditional rd v ea s = .next t) :
    (∃ u, memWrite ea .word v { s with resv := none } = .ok () u ∧ AccessOnly { s with resv := none } u
        ∧ s.resv = some ea ∧ t = u.setReg rd 0#32)
      ∨ (s.resv ≠ some ea ∧ t = State.setReg { s with resv := none } rd 1#32)
      ∨ (∃ e a u, AccessOnly { s with resv := none } u ∧ memWrite ea .word v { s with resv := none } = .raise e a u
          ∧ t = takeException e a u)
      ∨ (wordAligned ea = false ∧ t = takeException .storeMisaligned ea s) := by
  have ha := memWrite_after ea .word v { s with resv := none }
  unfold storeConditional at h
  split at h
  · split at h
    · rename_i hr
      rcases hm : memWrite ea .word v { s with resv := none } with ⟨_, u⟩ | ⟨e, a, u⟩ | r <;> rw [hm] at h ha <;>
        simp only [Res.bind, finish, Host.Outcome.next.injEq, reduceCtorEq] at h
      · exact .inl ⟨u, rfl, ha, hr, h.symm⟩
      · exact .inr (.inr (.inl ⟨e, a, u, ha, rfl, h.symm⟩))
    · rename_i hr
      simp only [Host.Outcome.next.injEq] at h
      exact .inr (.inl ⟨hr, h.symm⟩)
  · rename_i hw
    simp only [Host.Outcome.next.injEq] at h
    exact .inr (.inr (.inr ⟨by simpa using hw, h.symm⟩))

/-- What an AMO can do (45_atomics.md R351, R354). -/
theorem amo_next {f : Word → Word → Word} {rd : Reg} {src ea : Word} {s t : State} (h : amo f rd src ea s = .next t) :
    (∃ pa u old v, translate ea .W s = .ok pa u ∧ TranslationOnly s u ∧ (busAnswer u .read pa 4).status = .ok
        ∧ old = (busAnswer u .read pa 4).data ∧ v = busAfter u .read pa 4
        ∧ (busAnswer v (.write (f old src)) pa 4).status = .ok
        ∧ t = (busAfter v (.write (f old src)) pa 4).setReg rd old)
      ∨ (∃ e u, TranslationOnly s u ∧ t = takeException e ea u) := by
  unfold amo at h
  split at h
  · rcases translate_cases ea .W s with ⟨pa, u, ht, hu⟩ | ⟨e, u, ht, -, hu⟩ <;> rw [ht] at h
    · have hv := hu.trans (busAfter_read u pa 4).toTranslation
      rcases busRead_cases .W ea pa .word u with ⟨hb, hr⟩ | ⟨-, hr⟩
      · rcases busWrite_cases ea pa .word (f (busAnswer u .read pa 4).data src) (busAfter u .read pa 4) with
          ⟨hb', hw⟩ | ⟨hb', hw⟩ <;>
          simp only [Res.bind, hr, Width.bytes, hw, finish, Host.Outcome.next.injEq] at h
        · exact .inl ⟨pa, u, _, _, ht, hu, hb, rfl, rfl, hb', h.symm⟩
        · exact .inr ⟨_, _, hv.trans (busAfter_rejected hb').toTranslation, h.symm⟩
      · simp only [Res.bind, hr, finish, Host.Outcome.next.injEq] at h
        exact .inr ⟨_, _, hv, h.symm⟩
    · simp only [Res.bind, finish, Host.Outcome.next.injEq] at h
      exact .inr ⟨e, u, hu, h.symm⟩
  · simp only [Host.Outcome.next.injEq] at h
    exact .inr ⟨_, s, rfl, h.symm⟩

/-- A load is refused exactly where its access has a 3-byte part (20_memory.md R108). -/
theorem load_refused {w : Width} {extend : Word → Word} {rd : Reg} {ea : Word} {s : State} {r : Refusal} :
    load w extend rd ea s = .refused r ↔ partsOf ea w = .threeByte ∧ r = .threeBytePart := by
  rw [← memRead_refuse ea w .R s r]
  unfold load
  rcases memRead ea w .R s with _ | _ | _ <;> simp [Res.bind, finish]

/-- A store is refused exactly where its access has a 3-byte part (20_memory.md R108). -/
theorem store_refused {w : Width} {v ea : Word} {s : State} {r : Refusal} :
    store w v ea s = .refused r ↔ partsOf ea w = .threeByte ∧ r = .threeBytePart := by
  rw [← memWrite_refuse ea w v s r]; exact finish_eq_refused

/-! ### CSR access -/

/-- What a gated CSR write can have changed (10_state.md R36, R37). -/
theorem csrWrite_only (n : CsrNum) (v : Word) (s : State) :
    csrWrite n v s = { s with
      csr := (csrWrite n v s).csr, itlb := (csrWrite n v s).itlb, dtlb := (csrWrite n v s).dtlb
      stlb := (csrWrite n v s).stlb, asidCache := (csrWrite n v s).asidCache } := by
  unfold csrWrite; split
  · dsimp only; split <;> rfl
  · rfl

/-- What a CSR instruction can do (46_system_csr.md R381): it has its effect, or a check fails and it is illegal with
nothing else changed. -/
theorem csrOp_next {n : CsrNum} {doWrite : Bool} {new : Word → Word} {rd : Reg} {s t : State}
    (h : csrOp n doWrite new rd s = .next t) :
    (csrCheck n false s = true ∧ (doWrite = true → csrCheck n true s = true)
        ∧ t = (if doWrite then csrWrite n (new (csrRead n s)) s else s).setReg rd (csrRead n s))
      ∨ ((csrCheck n false s = false ∨ doWrite = true ∧ csrCheck n true s = false)
        ∧ t = takeException .illegal s.rawInst s) := by
  unfold csrOp at h
  split at h
  · rename_i hc
    simp only [illegalInstruction, Host.Outcome.next.injEq] at h
    exact .inr ⟨.inl (by simpa using hc), h.symm⟩
  · rename_i hc
    split at h
    · rename_i hw
      simp only [illegalInstruction, Host.Outcome.next.injEq] at h
      exact .inr ⟨.inr (by simpa using hw), h.symm⟩
    · rename_i hw
      simp only [Host.Outcome.next.injEq] at h
      refine .inl ⟨by simpa using hc, ?_, h.symm⟩
      intro hd
      simpa [hd] using hw

/-! ### The interrupt check and the end of an instruction -/

/-- A cause is takeable exactly if `CanTake` says so (60_exceptions.md R514, R516). -/
theorem takeable_iff (s : State) (i : Nat) : takeable s i = true ↔ CanTake s i := by
  have hU : Priv.U.below .M = true ∧ Priv.U.below .S = true := ⟨rfl, rfl⟩
  have hS : Priv.S.below .M = true ∧ Priv.S.below .S = false := ⟨rfl, rfl⟩
  have hM : Priv.M.below .M = false := rfl
  simp only [takeable, CanTake, destPriv]
  cases hp : s.priv <;> cases hd : s.csr.mideleg.getLsbD i <;> simp [hd, hU, hS, hM, and_assoc]

/-- Membership in the order of the scan. -/
theorem mem_causeOrder (i : Nat) : i ∈ causeOrder ↔ i < 12 := by
  simp only [causeOrder, List.mem_cons, List.not_mem_nil, or_false]; omega

/-- The check does nothing, or takes one takeable cause above which none is takeable (60_exceptions.md R514). -/
theorem checkInterrupts_cases (s : State) :
    (checkInterrupts s = s ∧ ∀ i ∈ causeOrder, takeable s i = false)
      ∨ (∃ i ∈ causeOrder, takeable s i = true ∧ checkInterrupts s = trapEntry true i 0#32 s.pc s) := by
  unfold checkInterrupts pendingInterrupt
  split
  · rename_i i h
    exact .inr ⟨i, List.mem_of_find?_eq_some h, List.find?_some h, rfl⟩
  · rename_i h
    exact .inl ⟨rfl, fun i hi => by simpa using List.find?_eq_none.1 h i hi⟩

/-- WFI's tail is a commit and the interrupt check, and sets the result where no interrupt is taken (46_system_csr.md
R392). -/
theorem wfiTail_cases (s : State) :
    (∃ r, (r = .idle ∨ r = .noTrap) ∧ wfiTail s = { commitPc s with result := r })
      ∨ (∃ i ∈ causeOrder, takeable (commitPc s) i = true
          ∧ wfiTail s = trapEntry true i 0#32 s.nextPc (commitPc s)) := by
  unfold wfiTail pendingInterrupt
  dsimp only
  split
  · rename_i i h
    exact .inr ⟨i, List.mem_of_find?_eq_some h, List.find?_some h, rfl⟩
  · refine .inl ⟨_, ?_, rfl⟩
    split <;> simp

/-- What follows an instruction (40_step.md R230): nothing, or the commit and its interrupt check. -/
theorem retire_cases (i : Instr) (s : State) :
    ((s.result.isTrap = true ∨ i = .wfi) ∧ retire i s = s)
      ∨ (s.result.isTrap = false ∧ i ≠ .wfi ∧ retire i s = checkInterrupts (commitPc s)) := by
  unfold retire
  split
  · rename_i h; exact .inl ⟨by simpa using h, rfl⟩
  · rename_i h
    simp only [Bool.or_eq_true, beq_iff_eq, not_or, Bool.not_eq_true] at h
    exact .inr ⟨h.1, h.2, rfl⟩

/-! ### The step -/

/-- A fetch changes nothing but the TLB and the count of oracle calls (40_step.md R231, R232). -/
theorem fetch_after (s : State) : (fetch s).After (TranslationOnly s) := by
  unfold fetch; split
  · refine (memRead_after s.pc .half .X s).bind (fun _ h => h) fun lo t ht => ?_
    split
    · refine ((memRead_after (t.pc + 2#32) .half .X t).mono fun _ h => ht.trans h).bind (fun _ h => h)
        fun hi u hu => ?_
      exact hu
    · exact ht
  · refine (memRead_after s.pc .word .X s).bind (fun _ h => h) fun w t ht => ?_
    split <;> exact ht

/-- What a step that answers a next state did (40_step.md R230): the fetch raised, the bits are no instruction, or the
instruction was executed and retired. -/
theorem step_next {s t : State} (h : step s = .next t) :
    (∃ e v u, fetch (beginStep s) = .raise e v u ∧ TranslationOnly (beginStep s) u ∧ t = takeException e v u)
      ∨ (∃ f u x, fetch (beginStep s) = .ok f u ∧ TranslationOnly (beginStep s) u ∧ decode f.raw = .error x
          ∧ t = takeException .illegal f.raw u)
      ∨ (∃ f u i w, fetch (beginStep s) = .ok f u ∧ TranslationOnly (beginStep s) u ∧ decode f.raw = .ok i
          ∧ exec i (arm f u) = .next w ∧ t = retire i w) := by
  have ha := fetch_after (beginStep s)
  unfold step at h
  rcases hf : fetch (beginStep s) with ⟨f, u⟩ | ⟨e, v, u⟩ | r <;> rw [hf] at h ha
  · dsimp only at h
    unfold executeFetched at h
    split at h
    · rename_i x hd
      simp only [Host.Outcome.next.injEq] at h
      exact .inr (.inl ⟨f, u, x, rfl, ha, hd, h.symm⟩)
    · rename_i i hd
      split at h
      · rename_i w hx
        simp only [Host.Outcome.next.injEq] at h
        exact .inr (.inr ⟨f, u, i, w, rfl, ha, hd, hx, h.symm⟩)
      · cases h
      · cases h
  · simp only [Host.Outcome.next.injEq] at h
    exact .inl ⟨e, v, u, rfl, ha, h.symm⟩
  · cases h

end Sys2Proof.Machine
end

