-- ==== Sys2Proof/Laws/PerInstr.lean ====
section
/-! SUPPORT. Facts about an instruction as syntax, one lemma per constructor. -/

namespace Sys2Proof.Laws.LowBits

/-- The low two bits of an instruction's word say its length, and a compressed instruction's word is zero above its
halfword (30_encoding.md R190, R202). -/
def Statement (i : Instr) : Prop :=
  isLong (encode i) = !i.compressed ∧ (i.compressed = true → (encode i).extractLsb' 16 16 = 0#16)

/-- The low bits of a concatenation are those of its lower part. -/
theorem low_append {n w : Nat} (hi : BitVec n) (lo : BitVec w) (h : 2 ≤ w) :
    (hi ++ lo).extractLsb' 0 2 = lo.extractLsb' 0 2 :=
  BitVec.extractLsb'_append_eq_of_add_le h

/-- A 32-bit instruction whose word ends in 11. -/
theorem of_long {i : Instr} (hc : i.compressed = false) (h : (encode i).extractLsb' 0 2 = 3#2) : Statement i :=
  ⟨by simp [isLong, h, hc], by simp [hc]⟩

/-- A compressed instruction whose halfword does not end in 11. -/
theorem of_half {i : Instr} {q : BitVec 2} (c : Half) (he : encode i = ofHalf c) (hc : i.compressed = true)
    (h : c.extractLsb' 0 2 = q) (hq : q ≠ 3#2) : Statement i := by
  refine ⟨?_, fun _ => ?_⟩
  · simp [isLong, he, ofHalf, hc, BitVec.extractLsb'_setWidth_of_le, h, hq]
  · rw [he]; ext k hk; simp [ofHalf]

theorem lui (rd : Reg) (imm : BitVec 20) : Statement (.lui rd imm) :=
  of_long rfl (low_append _ _ (by decide))

theorem auipc (rd : Reg) (imm : BitVec 20) : Statement (.auipc rd imm) :=
  of_long rfl (low_append _ _ (by decide))

theorem jal (rd : Reg) (off : BitVec 21) : Statement (.jal rd off) :=
  of_long rfl (low_append _ _ (by decide))

theorem jalr (rd : Reg) (rs1 : Reg) (imm : BitVec 12) : Statement (.jalr rd rs1 imm) :=
  of_long rfl (low_append _ _ (by decide))

theorem beq (rs1 : Reg) (rs2 : Reg) (off : BitVec 13) : Statement (.beq rs1 rs2 off) :=
  of_long rfl (low_append _ _ (by decide))

theorem bne (rs1 : Reg) (rs2 : Reg) (off : BitVec 13) : Statement (.bne rs1 rs2 off) :=
  of_long rfl (low_append _ _ (by decide))

theorem blt (rs1 : Reg) (rs2 : Reg) (off : BitVec 13) : Statement (.blt rs1 rs2 off) :=
  of_long rfl (low_append _ _ (by decide))

theorem bge (rs1 : Reg) (rs2 : Reg) (off : BitVec 13) : Statement (.bge rs1 rs2 off) :=
  of_long rfl (low_append _ _ (by decide))

theorem bltu (rs1 : Reg) (rs2 : Reg) (off : BitVec 13) : Statement (.bltu rs1 rs2 off) :=
  of_long rfl (low_append _ _ (by decide))

theorem bgeu (rs1 : Reg) (rs2 : Reg) (off : BitVec 13) : Statement (.bgeu rs1 rs2 off) :=
  of_long rfl (low_append _ _ (by decide))

theorem lb (rd : Reg) (rs1 : Reg) (imm : BitVec 12) : Statement (.lb rd rs1 imm) :=
  of_long rfl (low_append _ _ (by decide))

theorem lh (rd : Reg) (rs1 : Reg) (imm : BitVec 12) : Statement (.lh rd rs1 imm) :=
  of_long rfl (low_append _ _ (by decide))

theorem lw (rd : Reg) (rs1 : Reg) (imm : BitVec 12) : Statement (.lw rd rs1 imm) :=
  of_long rfl (low_append _ _ (by decide))

theorem lbu (rd : Reg) (rs1 : Reg) (imm : BitVec 12) : Statement (.lbu rd rs1 imm) :=
  of_long rfl (low_append _ _ (by decide))

theorem lhu (rd : Reg) (rs1 : Reg) (imm : BitVec 12) : Statement (.lhu rd rs1 imm) :=
  of_long rfl (low_append _ _ (by decide))

theorem sb (rs2 : Reg) (rs1 : Reg) (imm : BitVec 12) : Statement (.sb rs2 rs1 imm) :=
  of_long rfl (low_append _ _ (by decide))

theorem sh (rs2 : Reg) (rs1 : Reg) (imm : BitVec 12) : Statement (.sh rs2 rs1 imm) :=
  of_long rfl (low_append _ _ (by decide))

theorem sw (rs2 : Reg) (rs1 : Reg) (imm : BitVec 12) : Statement (.sw rs2 rs1 imm) :=
  of_long rfl (low_append _ _ (by decide))

theorem addi (rd : Reg) (rs1 : Reg) (imm : BitVec 12) : Statement (.addi rd rs1 imm) :=
  of_long rfl (low_append _ _ (by decide))

theorem slti (rd : Reg) (rs1 : Reg) (imm : BitVec 12) : Statement (.slti rd rs1 imm) :=
  of_long rfl (low_append _ _ (by decide))

theorem sltiu (rd : Reg) (rs1 : Reg) (imm : BitVec 12) : Statement (.sltiu rd rs1 imm) :=
  of_long rfl (low_append _ _ (by decide))

theorem xori (rd : Reg) (rs1 : Reg) (imm : BitVec 12) : Statement (.xori rd rs1 imm) :=
  of_long rfl (low_append _ _ (by decide))

theorem ori (rd : Reg) (rs1 : Reg) (imm : BitVec 12) : Statement (.ori rd rs1 imm) :=
  of_long rfl (low_append _ _ (by decide))

theorem andi (rd : Reg) (rs1 : Reg) (imm : BitVec 12) : Statement (.andi rd rs1 imm) :=
  of_long rfl (low_append _ _ (by decide))

theorem slli (rd : Reg) (rs1 : Reg) (shamt : BitVec 5) : Statement (.slli rd rs1 shamt) :=
  of_long rfl (low_append _ _ (by decide))

theorem srli (rd : Reg) (rs1 : Reg) (shamt : BitVec 5) : Statement (.srli rd rs1 shamt) :=
  of_long rfl (low_append _ _ (by decide))

theorem srai (rd : Reg) (rs1 : Reg) (shamt : BitVec 5) : Statement (.srai rd rs1 shamt) :=
  of_long rfl (low_append _ _ (by decide))

theorem add (rd : Reg) (rs1 : Reg) (rs2 : Reg) : Statement (.add rd rs1 rs2) :=
  of_long rfl (low_append _ _ (by decide))

theorem sub (rd : Reg) (rs1 : Reg) (rs2 : Reg) : Statement (.sub rd rs1 rs2) :=
  of_long rfl (low_append _ _ (by decide))

theorem sll (rd : Reg) (rs1 : Reg) (rs2 : Reg) : Statement (.sll rd rs1 rs2) :=
  of_long rfl (low_append _ _ (by decide))

theorem slt (rd : Reg) (rs1 : Reg) (rs2 : Reg) : Statement (.slt rd rs1 rs2) :=
  of_long rfl (low_append _ _ (by decide))

theorem sltu (rd : Reg) (rs1 : Reg) (rs2 : Reg) : Statement (.sltu rd rs1 rs2) :=
  of_long rfl (low_append _ _ (by decide))

theorem xor (rd : Reg) (rs1 : Reg) (rs2 : Reg) : Statement (.xor rd rs1 rs2) :=
  of_long rfl (low_append _ _ (by decide))

theorem srl (rd : Reg) (rs1 : Reg) (rs2 : Reg) : Statement (.srl rd rs1 rs2) :=
  of_long rfl (low_append _ _ (by decide))

theorem sra (rd : Reg) (rs1 : Reg) (rs2 : Reg) : Statement (.sra rd rs1 rs2) :=
  of_long rfl (low_append _ _ (by decide))

theorem or (rd : Reg) (rs1 : Reg) (rs2 : Reg) : Statement (.or rd rs1 rs2) :=
  of_long rfl (low_append _ _ (by decide))

theorem and (rd : Reg) (rs1 : Reg) (rs2 : Reg) : Statement (.and rd rs1 rs2) :=
  of_long rfl (low_append _ _ (by decide))

theorem mul (rd : Reg) (rs1 : Reg) (rs2 : Reg) : Statement (.mul rd rs1 rs2) :=
  of_long rfl (low_append _ _ (by decide))

theorem mulh (rd : Reg) (rs1 : Reg) (rs2 : Reg) : Statement (.mulh rd rs1 rs2) :=
  of_long rfl (low_append _ _ (by decide))

theorem mulhsu (rd : Reg) (rs1 : Reg) (rs2 : Reg) : Statement (.mulhsu rd rs1 rs2) :=
  of_long rfl (low_append _ _ (by decide))

theorem mulhu (rd : Reg) (rs1 : Reg) (rs2 : Reg) : Statement (.mulhu rd rs1 rs2) :=
  of_long rfl (low_append _ _ (by decide))

theorem div (rd : Reg) (rs1 : Reg) (rs2 : Reg) : Statement (.div rd rs1 rs2) :=
  of_long rfl (low_append _ _ (by decide))

theorem divu (rd : Reg) (rs1 : Reg) (rs2 : Reg) : Statement (.divu rd rs1 rs2) :=
  of_long rfl (low_append _ _ (by decide))

theorem rem (rd : Reg) (rs1 : Reg) (rs2 : Reg) : Statement (.rem rd rs1 rs2) :=
  of_long rfl (low_append _ _ (by decide))

theorem remu (rd : Reg) (rs1 : Reg) (rs2 : Reg) : Statement (.remu rd rs1 rs2) :=
  of_long rfl (low_append _ _ (by decide))

theorem fence (fm : BitVec 4) (pred : BitVec 4) (succ : BitVec 4) (rs1 : Reg) (rd : Reg) : Statement (.fence fm pred succ rs1 rd) :=
  of_long rfl (low_append _ _ (by decide))

theorem fenceI (imm : BitVec 12) (rs1 : Reg) (rd : Reg) : Statement (.fenceI imm rs1 rd) :=
  of_long rfl (low_append _ _ (by decide))

theorem ecall : Statement .ecall :=
  of_long rfl rfl

theorem ebreak : Statement .ebreak :=
  of_long rfl rfl

theorem sret : Statement .sret :=
  of_long rfl rfl

theorem mret : Statement .mret :=
  of_long rfl rfl

theorem wfi : Statement .wfi :=
  of_long rfl rfl

theorem sfenceVma (rs1 : Reg) (rs2 : Reg) : Statement (.sfenceVma rs1 rs2) :=
  of_long rfl (low_append _ _ (by decide))

theorem csrrw (rd : Reg) (csr : CsrNum) (rs1 : Reg) : Statement (.csrrw rd csr rs1) :=
  of_long rfl (low_append _ _ (by decide))

theorem csrrs (rd : Reg) (csr : CsrNum) (rs1 : Reg) : Statement (.csrrs rd csr rs1) :=
  of_long rfl (low_append _ _ (by decide))

theorem csrrc (rd : Reg) (csr : CsrNum) (rs1 : Reg) : Statement (.csrrc rd csr rs1) :=
  of_long rfl (low_append _ _ (by decide))

theorem csrrwi (rd : Reg) (csr : CsrNum) (uimm : BitVec 5) : Statement (.csrrwi rd csr uimm) :=
  of_long rfl (low_append _ _ (by decide))

theorem csrrsi (rd : Reg) (csr : CsrNum) (uimm : BitVec 5) : Statement (.csrrsi rd csr uimm) :=
  of_long rfl (low_append _ _ (by decide))

theorem csrrci (rd : Reg) (csr : CsrNum) (uimm : BitVec 5) : Statement (.csrrci rd csr uimm) :=
  of_long rfl (low_append _ _ (by decide))

theorem lrW (aq : Bool) (rl : Bool) (rd : Reg) (rs1 : Reg) : Statement (.lrW aq rl rd rs1) :=
  of_long rfl (low_append _ _ (by decide))

theorem scW (aq : Bool) (rl : Bool) (rd : Reg) (rs2 : Reg) (rs1 : Reg) : Statement (.scW aq rl rd rs2 rs1) :=
  of_long rfl (low_append _ _ (by decide))

theorem amoSwapW (aq : Bool) (rl : Bool) (rd : Reg) (rs2 : Reg) (rs1 : Reg) : Statement (.amoSwapW aq rl rd rs2 rs1) :=
  of_long rfl (low_append _ _ (by decide))

theorem amoAddW (aq : Bool) (rl : Bool) (rd : Reg) (rs2 : Reg) (rs1 : Reg) : Statement (.amoAddW aq rl rd rs2 rs1) :=
  of_long rfl (low_append _ _ (by decide))

theorem amoXorW (aq : Bool) (rl : Bool) (rd : Reg) (rs2 : Reg) (rs1 : Reg) : Statement (.amoXorW aq rl rd rs2 rs1) :=
  of_long rfl (low_append _ _ (by decide))

theorem amoAndW (aq : Bool) (rl : Bool) (rd : Reg) (rs2 : Reg) (rs1 : Reg) : Statement (.amoAndW aq rl rd rs2 rs1) :=
  of_long rfl (low_append _ _ (by decide))

theorem amoOrW (aq : Bool) (rl : Bool) (rd : Reg) (rs2 : Reg) (rs1 : Reg) : Statement (.amoOrW aq rl rd rs2 rs1) :=
  of_long rfl (low_append _ _ (by decide))

theorem amoMinW (aq : Bool) (rl : Bool) (rd : Reg) (rs2 : Reg) (rs1 : Reg) : Statement (.amoMinW aq rl rd rs2 rs1) :=
  of_long rfl (low_append _ _ (by decide))

theorem amoMaxW (aq : Bool) (rl : Bool) (rd : Reg) (rs2 : Reg) (rs1 : Reg) : Statement (.amoMaxW aq rl rd rs2 rs1) :=
  of_long rfl (low_append _ _ (by decide))

theorem amoMinuW (aq : Bool) (rl : Bool) (rd : Reg) (rs2 : Reg) (rs1 : Reg) : Statement (.amoMinuW aq rl rd rs2 rs1) :=
  of_long rfl (low_append _ _ (by decide))

theorem amoMaxuW (aq : Bool) (rl : Bool) (rd : Reg) (rs2 : Reg) (rs1 : Reg) : Statement (.amoMaxuW aq rl rd rs2 rs1) :=
  of_long rfl (low_append _ _ (by decide))

theorem cAddi4spn (rd : CReg) (nzuimm : BitVec 10) : Statement (.cAddi4spn rd nzuimm) :=
  of_half _ rfl rfl (low_append _ _ (by decide)) (by decide)

theorem cLw (rd : CReg) (rs1 : CReg) (uimm : BitVec 7) : Statement (.cLw rd rs1 uimm) :=
  of_half _ rfl rfl (low_append _ _ (by decide)) (by decide)

theorem cSw (rs2 : CReg) (rs1 : CReg) (uimm : BitVec 7) : Statement (.cSw rs2 rs1 uimm) :=
  of_half _ rfl rfl (low_append _ _ (by decide)) (by decide)

theorem cNop (imm : BitVec 6) : Statement (.cNop imm) :=
  of_half _ rfl rfl (low_append _ _ (by decide)) (by decide)

theorem cAddi (rd : Reg) (imm : BitVec 6) : Statement (.cAddi rd imm) :=
  of_half _ rfl rfl (low_append _ _ (by decide)) (by decide)

theorem cJal (off : BitVec 12) : Statement (.cJal off) :=
  of_half _ rfl rfl (low_append _ _ (by decide)) (by decide)

theorem cLi (rd : Reg) (imm : BitVec 6) : Statement (.cLi rd imm) :=
  of_half _ rfl rfl (low_append _ _ (by decide)) (by decide)

theorem cAddi16sp (nzimm : BitVec 10) : Statement (.cAddi16sp nzimm) :=
  of_half _ rfl rfl (low_append _ _ (by decide)) (by decide)

theorem cLui (rd : Reg) (nzimm : BitVec 6) : Statement (.cLui rd nzimm) :=
  of_half _ rfl rfl (low_append _ _ (by decide)) (by decide)

theorem cSrli (rd : CReg) (shamt : BitVec 5) : Statement (.cSrli rd shamt) :=
  of_half _ rfl rfl (low_append _ _ (by decide)) (by decide)

theorem cSrai (rd : CReg) (shamt : BitVec 5) : Statement (.cSrai rd shamt) :=
  of_half _ rfl rfl (low_append _ _ (by decide)) (by decide)

theorem cAndi (rd : CReg) (imm : BitVec 6) : Statement (.cAndi rd imm) :=
  of_half _ rfl rfl (low_append _ _ (by decide)) (by decide)

theorem cSub (rd : CReg) (rs2 : CReg) : Statement (.cSub rd rs2) :=
  of_half _ rfl rfl (low_append _ _ (by decide)) (by decide)

theorem cXor (rd : CReg) (rs2 : CReg) : Statement (.cXor rd rs2) :=
  of_half _ rfl rfl (low_append _ _ (by decide)) (by decide)

theorem cOr (rd : CReg) (rs2 : CReg) : Statement (.cOr rd rs2) :=
  of_half _ rfl rfl (low_append _ _ (by decide)) (by decide)

theorem cAnd (rd : CReg) (rs2 : CReg) : Statement (.cAnd rd rs2) :=
  of_half _ rfl rfl (low_append _ _ (by decide)) (by decide)

theorem cJ (off : BitVec 12) : Statement (.cJ off) :=
  of_half _ rfl rfl (low_append _ _ (by decide)) (by decide)

theorem cBeqz (rs1 : CReg) (off : BitVec 9) : Statement (.cBeqz rs1 off) :=
  of_half _ rfl rfl (low_append _ _ (by decide)) (by decide)

theorem cBnez (rs1 : CReg) (off : BitVec 9) : Statement (.cBnez rs1 off) :=
  of_half _ rfl rfl (low_append _ _ (by decide)) (by decide)

theorem cSlli (rd : Reg) (shamt : BitVec 5) : Statement (.cSlli rd shamt) :=
  of_half _ rfl rfl (low_append _ _ (by decide)) (by decide)

theorem cLwsp (rd : Reg) (uimm : BitVec 8) : Statement (.cLwsp rd uimm) :=
  of_half _ rfl rfl (low_append _ _ (by decide)) (by decide)

theorem cJr (rs1 : Reg) : Statement (.cJr rs1) :=
  of_half _ rfl rfl (low_append _ _ (by decide)) (by decide)

theorem cMv (rd : Reg) (rs2 : Reg) : Statement (.cMv rd rs2) :=
  of_half _ rfl rfl (low_append _ _ (by decide)) (by decide)

theorem cEbreak : Statement .cEbreak :=
  of_half _ rfl rfl rfl (by decide)

theorem cJalr (rs1 : Reg) : Statement (.cJalr rs1) :=
  of_half _ rfl rfl (low_append _ _ (by decide)) (by decide)

theorem cAdd (rd : Reg) (rs2 : Reg) : Statement (.cAdd rd rs2) :=
  of_half _ rfl rfl (low_append _ _ (by decide)) (by decide)

theorem cSwsp (rs2 : Reg) (uimm : BitVec 8) : Statement (.cSwsp rs2 uimm) :=
  of_half _ rfl rfl (low_append _ _ (by decide)) (by decide)

end Sys2Proof.Laws.LowBits
end

