-- ==== Sys2Proof/Laws/Tlb.lean ====
section
/-! SUPPORT. One set of ways: what a lookup finds, and each entry after a promotion, an insertion and an invalidation. -/

namespace Sys2Proof.Machine

/-- A lookup finds way k where it satisfies the predicate and no lower way does. -/
theorem firstWay_eq_some {n : Nat} {ways : Vector TlbEntry n} {p : TlbEntry → Bool} {k : Fin n} :
    firstWay ways p = some k ↔ p ways[k] = true ∧ ∀ j < k, p ways[j] = false := by
  unfold firstWay
  rw [List.find?_eq_some_iff_getElem]
  constructor
  · rintro ⟨h, i, hi, rfl, hlt⟩
    refine ⟨h, fun j hj => ?_⟩
    have hji : j.val < i := by simpa [Fin.lt_def] using hj
    simpa using hlt j.val hji
  · rintro ⟨h, hlt⟩
    refine ⟨h, k, by simp, by simp, fun j hj => ?_⟩
    have := hlt ⟨j, by omega⟩ hj
    simpa using this

/-- A lookup finds nothing where no way satisfies the predicate. -/
theorem firstWay_eq_none {n : Nat} {ways : Vector TlbEntry n} {p : TlbEntry → Bool} :
    firstWay ways p = none ↔ ∀ j : Fin n, p ways[j] = false := by
  unfold firstWay; rw [List.find?_eq_none]; simp

/-- An insertion puts the entry into one way and promotes that way. -/
theorem fill_cases {n : Nat} [NeZero n] (ways : Vector TlbEntry n) (e : TlbEntry) :
    ∃ k : Fin n, fill ways e = promote (ways.set k e) k := ⟨victim ways, rfl⟩

/-- A promotion changes ranks only, so what does not speak of ranks still holds of every way. -/
theorem promote_forall {n : Nat} {ways : Vector TlbEntry n} {P : TlbEntry → Prop}
    (hP : ∀ e r, P e → P { e with lru := r }) (h : ∀ j : Fin n, P ways[j]) (k j : Fin n) :
    P (promote ways k)[j] := by
  simp only [promote, Fin.getElem_fin, Vector.getElem_ofFn]
  split <;> exact hP _ _ (h j)

/-- What holds of the inserted entry and of every way before still holds of every way. -/
theorem fill_forall {n : Nat} [NeZero n] {ways : Vector TlbEntry n} {P : TlbEntry → Prop} {e : TlbEntry}
    (hP : ∀ e r, P e → P { e with lru := r }) (h : ∀ j : Fin n, P ways[j]) (he : P e) (j : Fin n) :
    P (fill ways e)[j] := by
  obtain ⟨k, hk⟩ := fill_cases ways e
  rw [hk]
  refine promote_forall hP (fun i => ?_) k j
  simp only [Fin.getElem_fin, Vector.getElem_set]
  split
  · exact he
  · exact h i

/-- The scan for the lowest rank along rising ways keeps the first of the lowest rank it has seen. -/
theorem lowestRank_scan {n : Nat} (rank : Fin n → Nat) (l : List (Fin n)) (b : Fin n)
    (hl : (b :: l).Pairwise (· < ·)) :
    ∃ r, l.foldl (fun best i => if rank i < rank best then i else best) b = r ∧ r ∈ b :: l
      ∧ ∀ j ∈ b :: l, rank r ≤ rank j ∧ (j < r → rank r < rank j) := by
  induction l generalizing b with
  | nil => simp
  | cons i l ih =>
    simp only [List.pairwise_cons, List.mem_cons] at hl
    rw [List.foldl_cons]
    by_cases h : rank i < rank b
    · rw [if_pos h]
      obtain ⟨r, he, hm, hr⟩ := ih i (by simpa using hl.2)
      refine ⟨r, he, List.mem_cons_of_mem _ hm, fun j hj => ?_⟩
      rcases List.mem_cons.1 hj with rfl | hj
      · have := (hr i (by simp)).1
        exact ⟨by omega, fun _ => by omega⟩
      · exact hr j hj
    · rw [if_neg h]
      obtain ⟨r, he, hm, hr⟩ := ih b (by simp only [List.pairwise_cons]; exact ⟨fun a ha => hl.1 a (.inr ha), hl.2.2⟩)
      refine ⟨r, he, ?_, fun j hj => ?_⟩
      · rcases List.mem_cons.1 hm with h | h
        · rw [h]; simp
        · exact List.mem_cons_of_mem _ (List.mem_cons_of_mem _ h)
      · rcases List.mem_cons.1 hj with rfl | hj
        · exact hr j (by simp)
        · rcases List.mem_cons.1 hj with rfl | hj
          · have hb := hr b (by simp)
            refine ⟨by omega, fun hlt => ?_⟩
            have := hb.2 (lt_trans (hl.1 j (.inl rfl)) hlt)
            omega
          · exact hr j (List.mem_cons_of_mem _ hj)

/-- The way an insertion overwrites is the one 21_mmu_tlb.md R166 names. -/
theorem victim_isVictim {n : Nat} [NeZero n] (ways : Vector TlbEntry n) : IsVictim ways (victim ways) := by
  unfold victim
  split
  · rename_i k h
    have := firstWay_eq_some.1 h
    exact .inl ⟨by simpa using this.1, fun j hj => by simpa using this.2 j hj⟩
  · rename_i h
    have hv := firstWay_eq_none.1 h
    obtain ⟨m, hm⟩ : ∃ m, n = m + 1 := ⟨n - 1, by have := NeZero.ne n; omega⟩
    subst hm
    refine .inr ⟨by simpa using hv, ?_⟩
    have hs : (0 :: (List.finRange m).map Fin.succ : List (Fin (m + 1))).Pairwise (· < ·) := by
      rw [← List.finRange_succ]; exact List.pairwise_lt_finRange _
    obtain ⟨r, he, -, hr⟩ := lowestRank_scan (fun i => ways[i].lru) ((List.finRange m).map Fin.succ) 0 hs
    have hv : lowestRank ways = r := by
      unfold lowestRank; rw [List.finRange_succ, List.foldl_cons, ← he]; simp
    rw [← List.finRange_succ] at hr
    rw [hv]
    exact ⟨fun j => (hr j (List.mem_finRange j)).1, fun j hj => (hr j (List.mem_finRange j)).2 hj⟩

/-- A set after an insertion (21_mmu_tlb.md R166, R168). -/
theorem fill_inserted {n : Nat} [NeZero n] (ways : Vector TlbEntry n) (e : TlbEntry) : Inserted ways (fill ways e) e := by
  refine ⟨victim ways, victim_isVictim ways, fun i => ?_⟩
  simp only [fill, promote, Fin.getElem_fin, Vector.getElem_ofFn, Fin.eta]
  by_cases h : i = victim ways
  · subst h; simp
  · have : (victim ways).val ≠ i.val := fun e => h (Fin.ext e.symm)
    rw [if_neg h, if_neg h]
    simp [Vector.getElem_set_ne, this]
/-- An invalidation clears `valid` in the entries it picks and leaves the others. -/
theorem dropWays_getElem {n : Nat} (p : TlbEntry → Bool) (ways : Vector TlbEntry n) (j : Fin n) :
    (dropWays p ways)[j] = if p ways[j] then { ways[j] with valid := false } else ways[j] := by
  simp [dropWays]

end Sys2Proof.Machine
end

