-- ==== Sys2Proof/Tests/Slice0.lean ====
section
/-! SUPPORT. Tests. Expected results are those of spec/95_test_vectors.md (section named) or of a rule's own words; a witness
shows a state that meets the hypotheses of a statement. -/

namespace Sys2Proof.Tests

open Sys2Proof.Machine

/-! ### Helpers -/

/-- Write general registers. -/
def withRegs (l : List (Reg × Word)) (s : State) : State := l.foldl (fun s r => s.setReg r.1 r.2) s

/-- Write words to memory. -/
def withWords (l : List (Nat × Word)) (s : State) : State :=
  { s with mem := l.foldl (fun m c => m.writeLE c.1 4 c.2) s.mem }

/-- The next state of a step. -/
def stepped (s : State) : Option State := match step s with
  | .next t => some t
  | _ => none

/-- One step of the instruction with these bits. -/
def run (w : Nat) (s : State) : Option State := stepped (s.withFetchWord 32 w)

/-- Reset, with registers. -/
def regs (l : List (Reg × Word)) : State := withRegs l State.reset

/-- The next state of an instruction. -/
def executed (i : Instr) (s : State) : Option State := match exec i s with
  | .next t => some t
  | _ => none

/-! ### Well-formedness: an ill-formed term for each check -/

theorem test_wf_refuses_odd_offset :
    ([.jal 1#5 1#21,
      .beq 1#5 2#5 3#13,
      .bne 1#5 2#5 3#13,
      .blt 1#5 2#5 3#13,
      .bge 1#5 2#5 3#13,
      .bltu 1#5 2#5 3#13,
      .bgeu 1#5 2#5 3#13,
      .cJal 1#12,
      .cJ 1#12,
      .cBeqz 0#3 1#9,
      .cBnez 0#3 1#9] : List Instr).all (fun i => !i.wf) = true := by
  decide

theorem test_wf_refuses_unscaled_immediate :
    ([.cAddi4spn 0#3 2#10,
      .cLw 0#3 0#3 2#7,
      .cSw 0#3 0#3 1#7,
      .cAddi16sp 8#10,
      .cLwsp 1#5 2#8,
      .cSwsp 1#5 1#8] : List Instr).all (fun i => !i.wf) = true := by
  decide

theorem test_wf_refuses_zero_immediate :
    ([.cAddi4spn 0#3 0#10,
      .cAddi16sp 0#10,
      .cLui 1#5 0#6] : List Instr).all (fun i => !i.wf) = true := by
  decide

theorem test_wf_refuses_reserved_register :
    ([.cAddi 0#5 1#6,
      .cLui 2#5 1#6,
      .cLwsp 0#5 4#8,
      .cJr 0#5,
      .cMv 1#5 0#5,
      .cJalr 0#5,
      .cAdd 1#5 0#5] : List Instr).all (fun i => !i.wf) = true := by
  decide

/-! ### Decoding: a word of the spec for every constructor -/

theorem test_decode_upper_and_jumps :
    decode 0xFFFFF1B7#32 = .ok (.lui 3#5 0xFFFFF#20)
      ∧ decode 0x80000197#32 = .ok (.auipc 3#5 0x80000#20)
      ∧ decode 0xF01FF0EF#32 = .ok (.jal 1#5 0x1FFF00#21)
      ∧ decode 0x7FFFF06F#32 = .ok (.jal 0#5 0x0FFFFE#21)
      ∧ decode 0xFFC08067#32 = .ok (.jalr 0#5 1#5 0xFFC#12) := by
  decide

theorem test_decode_branches :
    decode 0x7E000FE3#32 = .ok (.beq 0#5 0#5 4094#13)
      ∧ decode 0x80000063#32 = .ok (.beq 0#5 0#5 0x1000#13)
      ∧ decode 0xFE209CE3#32 = .ok (.bne 1#5 2#5 0x1FF8#13)
      ∧ decode 0x0020C463#32 = .ok (.blt 1#5 2#5 8#13)
      ∧ decode 0x0020D463#32 = .ok (.bge 1#5 2#5 8#13)
      ∧ decode 0x0020E463#32 = .ok (.bltu 1#5 2#5 8#13)
      ∧ decode 0x0020F463#32 = .ok (.bgeu 1#5 2#5 8#13) := by
  decide

theorem test_decode_loads_and_stores :
    decode 0x00350283#32 = .ok (.lb 5#5 10#5 3#12)
      ∧ decode 0x00251283#32 = .ok (.lh 5#5 10#5 2#12)
      ∧ decode 0xFFC62283#32 = .ok (.lw 5#5 12#5 0xFFC#12)
      ∧ decode 0x00154283#32 = .ok (.lbu 5#5 10#5 1#12)
      ∧ decode 0x7FF5D283#32 = .ok (.lhu 5#5 11#5 0x7FF#12)
      ∧ decode 0x006501A3#32 = .ok (.sb 6#5 10#5 3#12)
      ∧ decode 0x7E659FA3#32 = .ok (.sh 6#5 11#5 0x7FF#12)
      ∧ decode 0xFE662E23#32 = .ok (.sw 6#5 12#5 0xFFC#12) := by
  decide

theorem test_decode_immediate_alu :
    decode 0x80008193#32 = .ok (.addi 3#5 1#5 0x800#12)
      ∧ decode 0xFFF0A193#32 = .ok (.slti 3#5 1#5 0xFFF#12)
      ∧ decode 0x0010B193#32 = .ok (.sltiu 3#5 1#5 1#12)
      ∧ decode 0xFFF0C193#32 = .ok (.xori 3#5 1#5 0xFFF#12)
      ∧ decode 0x8000E193#32 = .ok (.ori 3#5 1#5 0x800#12)
      ∧ decode 0x7FF0F193#32 = .ok (.andi 3#5 1#5 0x7FF#12)
      ∧ decode 0x01F09193#32 = .ok (.slli 3#5 1#5 31#5)
      ∧ decode 0x01F0D193#32 = .ok (.srli 3#5 1#5 31#5)
      ∧ decode 0x4010D193#32 = .ok (.srai 3#5 1#5 1#5) := by
  decide

theorem test_decode_register_alu :
    decode 0x002081B3#32 = .ok (.add 3#5 1#5 2#5)
      ∧ decode 0x402081B3#32 = .ok (.sub 3#5 1#5 2#5)
      ∧ decode 0x002091B3#32 = .ok (.sll 3#5 1#5 2#5)
      ∧ decode 0x0020A1B3#32 = .ok (.slt 3#5 1#5 2#5)
      ∧ decode 0x0020B1B3#32 = .ok (.sltu 3#5 1#5 2#5)
      ∧ decode 0x0020C1B3#32 = .ok (.xor 3#5 1#5 2#5)
      ∧ decode 0x0020D1B3#32 = .ok (.srl 3#5 1#5 2#5)
      ∧ decode 0x4020D1B3#32 = .ok (.sra 3#5 1#5 2#5)
      ∧ decode 0x0020E1B3#32 = .ok (.or 3#5 1#5 2#5)
      ∧ decode 0x0020F1B3#32 = .ok (.and 3#5 1#5 2#5) := by
  decide

theorem test_decode_multiply_divide :
    decode 0x022081B3#32 = .ok (.mul 3#5 1#5 2#5)
      ∧ decode 0x022091B3#32 = .ok (.mulh 3#5 1#5 2#5)
      ∧ decode 0x0220A1B3#32 = .ok (.mulhsu 3#5 1#5 2#5)
      ∧ decode 0x0220B1B3#32 = .ok (.mulhu 3#5 1#5 2#5)
      ∧ decode 0x0220C1B3#32 = .ok (.div 3#5 1#5 2#5)
      ∧ decode 0x0220D1B3#32 = .ok (.divu 3#5 1#5 2#5)
      ∧ decode 0x0220E1B3#32 = .ok (.rem 3#5 1#5 2#5)
      ∧ decode 0x0220F1B3#32 = .ok (.remu 3#5 1#5 2#5) := by
  decide

theorem test_decode_system :
    decode 0x8330000F#32 = .ok (.fence 8#4 3#4 3#4 0#5 0#5)
      ∧ decode 0x0000100F#32 = .ok (.fenceI 0#12 0#5 0#5)
      ∧ decode 0x00000073#32 = .ok .ecall
      ∧ decode 0x00100073#32 = .ok .ebreak
      ∧ decode 0x10200073#32 = .ok .sret
      ∧ decode 0x30200073#32 = .ok .mret
      ∧ decode 0x10500073#32 = .ok .wfi
      ∧ decode 0x12628073#32 = .ok (.sfenceVma 5#5 6#5)
      ∧ decode 0x340312F3#32 = .ok (.csrrw 5#5 0x340#12 6#5)
      ∧ decode 0x300322F3#32 = .ok (.csrrs 5#5 0x300#12 6#5)
      ∧ decode 0x144332F3#32 = .ok (.csrrc 5#5 0x144#12 6#5)
      ∧ decode 0x340FD2F3#32 = .ok (.csrrwi 5#5 0x340#12 31#5)
      ∧ decode 0x300462F3#32 = .ok (.csrrsi 5#5 0x300#12 8#5)
      ∧ decode 0x300472F3#32 = .ok (.csrrci 5#5 0x300#12 8#5) := by
  decide

theorem test_decode_atomics :
    decode 0x1005AE2F#32 = .ok (.lrW false false 28#5 11#5)
      ∧ decode 0x1865A3AF#32 = .ok (.scW false false 7#5 6#5 11#5)
      ∧ decode 0x086523AF#32 = .ok (.amoSwapW false false 7#5 6#5 10#5)
      ∧ decode 0x0665202F#32 = .ok (.amoAddW true true 0#5 6#5 10#5)
      ∧ decode 0x206523AF#32 = .ok (.amoXorW false false 7#5 6#5 10#5)
      ∧ decode 0x606523AF#32 = .ok (.amoAndW false false 7#5 6#5 10#5)
      ∧ decode 0x406523AF#32 = .ok (.amoOrW false false 7#5 6#5 10#5)
      ∧ decode 0x806523AF#32 = .ok (.amoMinW false false 7#5 6#5 10#5)
      ∧ decode 0xA06523AF#32 = .ok (.amoMaxW false false 7#5 6#5 10#5)
      ∧ decode 0xC06523AF#32 = .ok (.amoMinuW false false 7#5 6#5 10#5)
      ∧ decode 0xE06523AF#32 = .ok (.amoMaxuW false false 7#5 6#5 10#5) := by
  decide

theorem test_decode_compressed_quadrant_0 :
    decode 0x00001FE8#32 = .ok (.cAddi4spn 2#3 1020#10)
      ∧ decode 0x00004044#32 = .ok (.cLw 1#3 0#3 4#7)
      ∧ decode 0x0000C044#32 = .ok (.cSw 1#3 0#3 4#7) := by
  decide

theorem test_decode_compressed_quadrant_1 :
    decode 0x00000001#32 = .ok (.cNop 0#6)
      ∧ decode 0x0000157D#32 = .ok (.cAddi 10#5 0x3F#6)
      ∧ decode 0x00003FFD#32 = .ok (.cJal 0xFFE#12)
      ∧ decode 0x00005501#32 = .ok (.cLi 10#5 0x20#6)
      ∧ decode 0x00007139#32 = .ok (.cAddi16sp 0x3C0#10)
      ∧ decode 0x0000617D#32 = .ok (.cAddi16sp 496#10)
      ∧ decode 0x00007501#32 = .ok (.cLui 10#5 0x20#6)
      ∧ decode 0x00008011#32 = .ok (.cSrli 0#3 4#5)
      ∧ decode 0x000084FD#32 = .ok (.cSrai 1#3 31#5)
      ∧ decode 0x00009941#32 = .ok (.cAndi 2#3 0x30#6)
      ∧ decode 0x00008C05#32 = .ok (.cSub 0#3 1#3)
      ∧ decode 0x00008C25#32 = .ok (.cXor 0#3 1#3)
      ∧ decode 0x00008C45#32 = .ok (.cOr 0#3 1#3)
      ∧ decode 0x00008C65#32 = .ok (.cAnd 0#3 1#3)
      ∧ decode 0x0000AFFD#32 = .ok (.cJ 2046#12)
      ∧ decode 0x0000C401#32 = .ok (.cBeqz 0#3 8#9)
      ∧ decode 0x0000F381#32 = .ok (.cBnez 7#3 0x100#9) := by
  decide

theorem test_decode_compressed_quadrant_2 :
    decode 0x0000050E#32 = .ok (.cSlli 10#5 3#5)
      ∧ decode 0x000050FE#32 = .ok (.cLwsp 1#5 252#8)
      ∧ decode 0x00008082#32 = .ok (.cJr 1#5)
      ∧ decode 0x0000852E#32 = .ok (.cMv 10#5 11#5)
      ∧ decode 0x00009002#32 = .ok .cEbreak
      ∧ decode 0x00009282#32 = .ok (.cJalr 5#5)
      ∧ decode 0x0000952E#32 = .ok (.cAdd 10#5 11#5)
      ∧ decode 0x0000C62A#32 = .ok (.cSwsp 10#5 12#8) := by
  decide

/-- Sections 2.1 to 2.7: illegal words and halfwords. -/
theorem test_decode_refuses :
    [0x40109193#32, 0x0200D193#32, 0x02009193#32, 0x402091B3#32, 0x042081B3#32, 0x00053283#32,
      0x00653023#32, 0x0020A463#32, 0x000510E7#32, 0x103522AF#32, 0x286523AF#32, 0x006533AF#32,
      0x340042F3#32, 0xFFFFFFFF#32, 0x00052007#32, 0x0000003B#32, 0x0000001B#32, 0x120000F3#32,
      0x00200073#32, 0x000000F3#32, 0x0000200F#32, 0x00000000#32, 0x00008002#32, 0x00006101#32,
      0x00006281#32, 0x00002000#32, 0x00004002#32, 0x00009001#32, 0x00009C01#32].all
      (fun w : Word => match decode w with
        | .ok _ => false
        | .error _ => true) = true := by
  decide

/-! ### One step per instruction -/

/-! Section 2.1. -/

theorem test_add_wraps : (run 0x002081B3 (regs [(1#5, 0xFFFFFFFF#32), (2#5, 0x1#32)])).map (·.reg 3#5) = some 0x0#32 := by decide

theorem test_sub_wraps : (run 0x402081B3 (regs [(1#5, 0x0#32), (2#5, 0x1#32)])).map (·.reg 3#5) = some 0xFFFFFFFF#32 := by decide

theorem test_sll_low_five_bits : (run 0x002091B3 (regs [(1#5, 0x1#32), (2#5, 0x21#32)])).map (·.reg 3#5) = some 0x2#32 := by decide

theorem test_slt_signed : (run 0x0020A1B3 (regs [(1#5, 0x7FFFFFFF#32), (2#5, 0x80000000#32)])).map (·.reg 3#5) = some 0x0#32 := by decide

theorem test_sltu_unsigned : (run 0x0020B1B3 (regs [(1#5, 0xFFFFFFFF#32), (2#5, 0x1#32)])).map (·.reg 3#5) = some 0x0#32 := by decide

theorem test_xor : (run 0x0020C1B3 (regs [(1#5, 0xFF00FF00#32), (2#5, 0x0FF00FF0#32)])).map (·.reg 3#5) = some 0xF0F0F0F0#32 := by decide

theorem test_srl_low_five_bits : (run 0x0020D1B3 (regs [(1#5, 0x80000000#32), (2#5, 0x20#32)])).map (·.reg 3#5) = some 0x80000000#32 := by decide

theorem test_sra_sign : (run 0x4020D1B3 (regs [(1#5, 0x80000000#32), (2#5, 0x1F#32)])).map (·.reg 3#5) = some 0xFFFFFFFF#32 := by decide

theorem test_or : (run 0x0020E1B3 (regs [(1#5, 0xFF00FF00#32), (2#5, 0x0FF00FF0#32)])).map (·.reg 3#5) = some 0xFFF0FFF0#32 := by decide

theorem test_and : (run 0x0020F1B3 (regs [(1#5, 0xFF00FF00#32), (2#5, 0x0FF00FF0#32)])).map (·.reg 3#5) = some 0x0F000F00#32 := by decide

theorem test_addi_sign_extends : (run 0x80008193 (regs [(1#5, 0x80000000#32), (2#5, 0x0#32)])).map (·.reg 3#5) = some 0x7FFFF800#32 := by decide

theorem test_slti_signed : (run 0xFFF0A193 (regs [(1#5, 0x80000000#32), (2#5, 0x0#32)])).map (·.reg 3#5) = some 0x1#32 := by decide

theorem test_sltiu_sign_extends : (run 0xFFF0B193 (regs [(1#5, 0xFFFFFFFE#32), (2#5, 0x0#32)])).map (·.reg 3#5) = some 0x1#32 := by decide

theorem test_xori : (run 0xFFF0C193 (regs [(1#5, 0x12345678#32), (2#5, 0x0#32)])).map (·.reg 3#5) = some 0xEDCBA987#32 := by decide

theorem test_ori : (run 0x8000E193 (regs [(1#5, 0x0000000F#32), (2#5, 0x0#32)])).map (·.reg 3#5) = some 0xFFFFF80F#32 := by decide

theorem test_andi : (run 0x7FF0F193 (regs [(1#5, 0xFFFFFFFF#32), (2#5, 0x0#32)])).map (·.reg 3#5) = some 0x7FF#32 := by decide

theorem test_slli : (run 0x01F09193 (regs [(1#5, 0x3#32), (2#5, 0x0#32)])).map (·.reg 3#5) = some 0x80000000#32 := by decide

theorem test_srli : (run 0x01F0D193 (regs [(1#5, 0x80000000#32), (2#5, 0x0#32)])).map (·.reg 3#5) = some 0x1#32 := by decide

theorem test_srai : (run 0x4010D193 (regs [(1#5, 0xFFFFFFFE#32), (2#5, 0x0#32)])).map (·.reg 3#5) = some 0xFFFFFFFF#32 := by decide

theorem test_lui : (run 0xFFFFF1B7 (regs [(1#5, 0x0#32), (2#5, 0x0#32)])).map (·.reg 3#5) = some 0xFFFFF000#32 := by decide

theorem test_auipc_wraps : (run 0x80000197 State.reset).map (fun t => (t.reg 3#5, t.pc)) = some (0#32, 0x80000004#32) := by
  decide

/-- Section 1.5: x0 stays 0. -/
theorem test_add_to_x0 : (run 0x00208033 (regs [(1#5, 5#32), (2#5, 6#32)])).map (·.reg 0#5) = some 0#32 := by decide

/-! Section 2.2. -/

theorem test_mul : (run 0x022081B3 (regs [(1#5, 0x80000000#32), (2#5, 0xFFFFFFFF#32)])).map (·.reg 3#5) = some 0x80000000#32 := by decide

theorem test_mulh : (run 0x022091B3 (regs [(1#5, 0x80000000#32), (2#5, 0x80000000#32)])).map (·.reg 3#5) = some 0x40000000#32 := by decide

theorem test_mulhsu : (run 0x0220A1B3 (regs [(1#5, 0x80000000#32), (2#5, 0x80000000#32)])).map (·.reg 3#5) = some 0xC0000000#32 := by decide

theorem test_mulhu : (run 0x0220B1B3 (regs [(1#5, 0x80000000#32), (2#5, 0xFFFFFFFF#32)])).map (·.reg 3#5) = some 0x7FFFFFFF#32 := by decide

theorem test_div_overflow : (run 0x0220C1B3 (regs [(1#5, 0x80000000#32), (2#5, 0xFFFFFFFF#32)])).map (·.reg 3#5) = some 0x80000000#32 := by decide

theorem test_div_by_zero : (run 0x0220C1B3 (regs [(1#5, 0x80000000#32), (2#5, 0x0#32)])).map (·.reg 3#5) = some 0xFFFFFFFF#32 := by decide

theorem test_divu_by_zero : (run 0x0220D1B3 (regs [(1#5, 0x1#32), (2#5, 0x0#32)])).map (·.reg 3#5) = some 0xFFFFFFFF#32 := by decide

theorem test_rem_overflow : (run 0x0220E1B3 (regs [(1#5, 0x80000000#32), (2#5, 0xFFFFFFFF#32)])).map (·.reg 3#5) = some 0x0#32 := by decide

theorem test_rem_by_zero : (run 0x0220E1B3 (regs [(1#5, 0x80000000#32), (2#5, 0x0#32)])).map (·.reg 3#5) = some 0x80000000#32 := by decide

theorem test_remu : (run 0x0220F1B3 (regs [(1#5, 0x1#32), (2#5, 0xFFFFFFFF#32)])).map (·.reg 3#5) = some 0x1#32 := by decide

/-! Section 2.3. -/

/-- The data of section 2.3. -/
def data : State :=
  withWords [(0x80001000, 0x8182FF7F#32), (0x80001004, 0x01020304#32), (0x80001FFC, 0xAABBCCDD#32),
      (0x80002000, 0x11223344#32)]
    (regs [(10#5, 0x80001000#32), (11#5, 0x80001800#32), (12#5, 0x80001004#32), (5#5, 0x55555555#32),
      (6#5, 0xA1B2C3D4#32)])

theorem test_lb_sign : (run 0x00350283 data).map (·.reg 5#5) = some 0xFFFFFF81#32 := by decide

theorem test_lbu_zero : (run 0x00354283 data).map (·.reg 5#5) = some 0x81#32 := by decide

theorem test_lh_sign : (run 0x00251283 data).map (·.reg 5#5) = some 0xFFFF8182#32 := by decide

theorem test_lhu_across_a_page : (run 0x7FF5D283 data).map (·.reg 5#5) = some 0x44AA#32 := by decide

theorem test_lw_negative_offset : (run 0xFFC62283 data).map (·.reg 5#5) = some 0x8182FF7F#32 := by decide

theorem test_lw_across_a_page : (run 0x7FE5A283 data).map (·.reg 5#5) = some 0x3344AABB#32 := by decide

theorem test_lw_misaligned : (run 0x00252283 data).map (fun t => (t.result, t.csr.mtval, t.reg 5#5)) =
    some (.trap 4#32, 0x80001002#32, 0x55555555#32) := by
  decide

theorem test_sb : (run 0x006501A3 data).map (fun t => wordAt t.mem 0x80001000) = some 0xD482FF7F#32 := by decide

theorem test_sh : (run 0x00651123 data).map (fun t => wordAt t.mem 0x80001000) = some 0xC3D4FF7F#32 := by decide

theorem test_sw : (run 0xFE662E23 data).map (fun t => wordAt t.mem 0x80001000) = some 0xA1B2C3D4#32 := by decide

theorem test_sw_across_a_page : (run 0x7E65AF23 data).map (fun t => (wordAt t.mem 0x80001FFC, wordAt t.mem 0x80002000)) =
    some (0xC3D4CCDD#32, 0x1122A1B2#32) := by
  decide

/-- The torn write: the high part is outside RAM, the low half stays written (20_memory.md R109). -/
theorem test_sw_torn :
    (run 0xFE652F23 (withWords [(0x87FFFFFC, 0x99999999#32)] (regs [(10#5, 0x88000000#32), (6#5, 0xAABBCCDD#32)]))).map
      (fun t => (t.result, wordAt t.mem 0x87FFFFFC, t.csr.mtval)) =
    some (.trap 7#32, 0xCCDD9999#32, 0x88000000#32) := by
  decide

/-! Section 2.4. -/

/-- Section 2.4 and 2.10: the instruction is at 0x80000100. -/
def at100 (l : List (Reg × Word)) : State := { regs l with pc := 0x80000100#32 }

theorem test_beq_taken : (run 0x00208863 (at100 [(1#5, 0x5#32), (2#5, 0x5#32)])).map (·.pc) = some 0x80000110#32 := by decide

theorem test_bne_not_taken : (run 0xFE209CE3 (at100 [(1#5, 0x5#32), (2#5, 0x5#32)])).map (·.pc) = some 0x80000104#32 := by decide

theorem test_bne_backward : (run 0xFE209CE3 (at100 [(1#5, 0x5#32), (2#5, 0x6#32)])).map (·.pc) = some 0x800000F8#32 := by decide

theorem test_blt_signed : (run 0x0020C463 (at100 [(1#5, 0xFFFFFFFF#32), (2#5, 0x1#32)])).map (·.pc) = some 0x80000108#32 := by decide

theorem test_bltu_unsigned : (run 0x0020E463 (at100 [(1#5, 0xFFFFFFFF#32), (2#5, 0x1#32)])).map (·.pc) = some 0x80000104#32 := by decide

theorem test_bge_equal : (run 0x0020D463 (at100 [(1#5, 0x7#32), (2#5, 0x7#32)])).map (·.pc) = some 0x80000108#32 := by decide

theorem test_bgeu_unsigned : (run 0x0020F463 (at100 [(1#5, 0xFFFFFFFF#32), (2#5, 0x1#32)])).map (·.pc) = some 0x80000108#32 := by decide

theorem test_jal_backward : (run 0xF01FF0EF (at100 [])).map (fun t => (t.pc, t.reg 1#5)) =
    some (0x80000000#32, 0x80000104#32) := by
  decide

theorem test_jalr_target_from_old_register : (run 0x00050567 (at100 [(10#5, 0x80002001#32)])).map
    (fun t => (t.pc, t.reg 10#5)) = some (0x80002000#32, 0x80000104#32) := by
  decide

/-! Section 2.5. -/

/-- The data of section 2.5. -/
def shared (old src : Word) : State := withWords [(0x80001000, old)] (regs [(10#5, 0x80001000#32), (6#5, src)])

theorem test_lrW_reserves : (run 0x100522AF (shared 5#32 9#32)).map (fun t => (t.reg 5#5, t.resv)) =
    some (5#32, some 0x80001000#32) := by
  decide

theorem test_scW_stores : (run 0x186523AF { shared 5#32 9#32 with resv := some 0x80001000#32 }).map
    (fun t => (t.reg 7#5, t.resv, wordAt t.mem 0x80001000)) = some (0#32, none, 9#32) := by
  decide

theorem test_scW_without_reservation : (run 0x186523AF (shared 5#32 9#32)).map
    (fun t => (t.reg 7#5, wordAt t.mem 0x80001000)) = some (1#32, 5#32) := by
  decide

theorem test_amoSwapW : (run 0x086523AF (shared 0x5#32 0x9#32)).map (fun t => (t.reg 7#5, wordAt t.mem 0x80001000)) =
    some (0x5#32, 0x9#32) := by
  decide

theorem test_amoAddW : (run 0x006523AF (shared 0x5#32 0xFFFFFFFF#32)).map (fun t => (t.reg 7#5, wordAt t.mem 0x80001000)) =
    some (0x5#32, 0x4#32) := by
  decide

theorem test_amoXorW : (run 0x206523AF (shared 0xFF#32 0xF#32)).map (fun t => (t.reg 7#5, wordAt t.mem 0x80001000)) =
    some (0xFF#32, 0xF0#32) := by
  decide

theorem test_amoAndW : (run 0x606523AF (shared 0xFF#32 0xF#32)).map (fun t => (t.reg 7#5, wordAt t.mem 0x80001000)) =
    some (0xFF#32, 0xF#32) := by
  decide

theorem test_amoOrW : (run 0x406523AF (shared 0xF0#32 0xF#32)).map (fun t => (t.reg 7#5, wordAt t.mem 0x80001000)) =
    some (0xF0#32, 0xFF#32) := by
  decide

theorem test_amoMinW : (run 0x806523AF (shared 0x80000000#32 0x7FFFFFFF#32)).map (fun t => (t.reg 7#5, wordAt t.mem 0x80001000)) =
    some (0x80000000#32, 0x80000000#32) := by
  decide

theorem test_amoMaxW : (run 0xA06523AF (shared 0x80000000#32 0x7FFFFFFF#32)).map (fun t => (t.reg 7#5, wordAt t.mem 0x80001000)) =
    some (0x80000000#32, 0x7FFFFFFF#32) := by
  decide

theorem test_amoMinuW : (run 0xC06523AF (shared 0xFFFFFFFF#32 0x1#32)).map (fun t => (t.reg 7#5, wordAt t.mem 0x80001000)) =
    some (0xFFFFFFFF#32, 0x1#32) := by
  decide

theorem test_amoMaxuW : (run 0xE06523AF (shared 0xFFFFFFFF#32 0x1#32)).map (fun t => (t.reg 7#5, wordAt t.mem 0x80001000)) =
    some (0xFFFFFFFF#32, 0xFFFFFFFF#32) := by
  decide

theorem test_amo_fault_is_a_store_fault : (run 0x006523AF (regs [(10#5, 16#32)])).map (fun t => (t.result, t.csr.mtval)) =
    some (.trap 7#32, 16#32) := by
  decide

/-! Section 2.6. -/

/-- A CSR state of section 2.6. -/
def csrState (p : Priv) (x6 : Word) (f : Csrs → Csrs) : State :=
  { regs [(6#5, x6)] with priv := p, csr := f Csrs.reset }

theorem test_csrrw : (run 0x340312F3 (csrState .M 0xDEADBEEF#32 fun c => { c with mscratch := 0x1234#32 })).map
    (fun t => (t.reg 5#5, t.csr.mscratch)) = some (0x1234#32, 0xDEADBEEF#32) := by
  decide

theorem test_csrrs_write_mask : (run 0x300322F3 (csrState .M 0xFFFFFFFF#32 id)).map
    (fun t => (t.reg 5#5, t.csr.mstatus)) = some (0#32, 0x001E19AA#32) := by
  decide

theorem test_csrrc_keeps_mpp_legal : (run 0x300332F3 (csrState .M 0x800#32 fun c => { c with mstatus := 0x1800#32 })).map
    (·.csr.mstatus) = some 0x1800#32 := by
  decide

theorem test_csrrwi : (run 0x340FD2F3 (csrState .M 0#32 fun c => { c with mscratch := 0x1234#32 })).map
    (fun t => (t.reg 5#5, t.csr.mscratch)) = some (0x1234#32, 31#32) := by
  decide

theorem test_csrrsi : (run 0x300462F3 State.reset).map (·.csr.mstatus) = some 8#32 := by decide

theorem test_csrrci : (run 0x300472F3 (csrState .M 0#32 fun c => { c with mstatus := 0x88#32 })).map
    (fun t => (t.reg 5#5, t.csr.mstatus)) = some (0x88#32, 0x80#32) := by
  decide

theorem test_csrrs_register_number_decides : (run 0xC00322F3 (csrState .M 0#32 fun c => { c with cycleLo := 41#32 })).map
    (fun t => (t.result, t.csr.cycleLo)) = some (.trap 2#32, 41#32) := by
  decide

theorem test_cycle_carries :
    (run 0xC80022F3 (csrState .U 0#32 fun c => { c with cycleLo := 0xFFFFFFFF#32, cycleHi := 7#32 })).map
      (fun t => (t.reg 5#5, t.csr.cycleHi, t.csr.cycleLo)) = some (7#32, 8#32, 0#32) := by
  decide

theorem test_sip_write_mask :
    (run 0x144312F3 (csrState .S 0xFFFFFFFF#32 fun c => { c with mip := 0x8A0#32 })).map
      (fun t => (t.reg 5#5, t.csr.mip)) = some (0x20#32, 0x8A2#32) := by
  decide

theorem test_satp_swap_needs_the_read : (run 0x18031073
    (csrState .S 0x456#32 fun c => { c with mstatus := 0x00100000#32, satp := 0x123#32 })).map
      (fun t => (t.result, t.csr.satp)) = some (.trap 2#32, 0x123#32) := by
  decide

/-! Section 2.7. -/

/-- A trap state of section 2.7. -/
def trapState (p : Priv) (f : Csrs → Csrs) : State :=
  { State.reset with priv := p, csr := f { Csrs.reset with mtvec := 0x80000100#32, stvec := 0x80000200#32 } }

theorem test_ecall_in_m : (run 0x00000073 (trapState .M fun c => { c with mstatus := 8#32, medeleg := 0xB3FF#32 })).map
    (fun t => (t.csr.mcause, t.csr.mepc, t.csr.mstatus, t.pc, t.priv)) =
    some (11#32, 0x80000000#32, 0x1880#32, 0x80000100#32, .M) := by
  decide

theorem test_ecall_delegated :
    (run 0x00000073 (trapState .U fun c => { c with mstatus := 10#32, medeleg := 0x100#32 })).map
      (fun t => (t.csr.scause, t.csr.sepc, t.csr.mstatus, t.pc, t.priv, t.csr.mcause)) =
    some (8#32, 0x80000000#32, 0x28#32, 0x80000200#32, .S, 0#32) := by
  decide

theorem test_ebreak_goes_to_the_base : (run 0x00100073 (trapState .M fun c => { c with mtvec := 0x80000101#32 })).map
    (fun t => (t.csr.mcause, t.pc)) = some (3#32, 0x80000100#32) := by
  decide

theorem test_mret : (run 0x30200073
    (trapState .M fun c => { c with mstatus := 0x20808#32, mepc := 0x80000400#32 })).map
      (fun t => (t.pc, t.priv, t.csr.mstatus)) = some (0x80000400#32, .S, 0x20080#32) := by
  decide

theorem test_mret_below_m : (run 0x30200073 (trapState .S id)).map
    (fun t => (t.result, t.csr.mtval, t.csr.mstatus, t.priv)) =
    some (.trap 2#32, 0x30200073#32, 0x800#32, .M) := by
  decide

theorem test_sret : (run 0x10200073
    (trapState .M fun c => { c with mstatus := 0x20002#32, sepc := 0x80000400#32 })).map
      (fun t => (t.pc, t.priv, t.csr.mstatus)) = some (0x80000400#32, .U, 0x20#32) := by
  decide

theorem test_fence_tso : (run 0x8330000F State.reset).map (fun t => (t.result, t.pc)) =
    some (.noTrap, 0x80000004#32) := by
  decide

theorem test_fenceI : (run 0x0000100F State.reset).map (fun t => (t.result, t.pc)) =
    some (.noTrap, 0x80000004#32) := by
  decide

theorem test_illegal_halfword : (run 0x00008002 State.reset).map (fun t => (t.result, t.csr.mtval, t.csr.mepc)) =
    some (.trap 2#32, 0x8002#32, 0x80000000#32) := by
  decide

/-! Section 2.8. -/

theorem test_timer_interrupt : (run 0x00000013
    ((trapState .M fun c => { c with mstatus := 8#32, mie := 0x80#32 }).injectInterrupts false true false)).map
      (fun t => (t.csr.mcause, t.csr.mepc, t.csr.mstatus, t.pc, t.csr.mip)) =
    some (0x80000007#32, 0x80000004#32, 0x1880#32, 0x80000100#32, 0x80#32) := by
  decide

theorem test_interrupt_scan_goes_on : (run 0x00000013
    ((trapState .S fun c => { c with mie := 0x280#32, mip := 0x200#32, mideleg := 0x222#32 }).injectInterrupts
      false true false)).map (fun t => (t.result, t.priv)) = some (.trap 0x80000007#32, .M) := by
  decide

theorem test_interrupt_vectored : (run 0x00000013
    (trapState .S fun c => { c with mstatus := 2#32, mie := 0x200#32, mip := 0x200#32, mideleg := 0x222#32,
                                    stvec := 0x80000201#32 })).map (fun t => (t.result, t.pc)) =
    some (.trap 0x80000009#32, 0x80000224#32) := by
  decide

theorem test_wfi_idle : (run 0x10500073 (trapState .U id)).map (fun t => (t.result, t.pc, t.csr.cycleLo)) =
    some (.idle, 0x80000004#32, 1#32) := by
  decide

theorem test_wfi_wakes : (run 0x10500073 (trapState .M fun c => { c with mie := 0x80#32, mip := 0x80#32 })).map
    (·.result) = some .noTrap := by
  decide

/-! Section 2.9. -/

/-- The page table T of section 2.9, in part. -/
def tableT : List (Nat × Word) :=
  [(0x80010004, 0x20004401#32), (0x80010008, 0x200004CF#32), (0x8001000C, 0x201000C7#32), (0x80010014, 0x04000001#32),
    (0x80010800, 0x200000EF#32), (0x80011000, 0x200080C7#32), (0x80011004, 0x20008443#32), (0x80011010, 0x20009049#32),
    (0x80011018, 0x200098C5#32), (0x80011020, 0x2000A0E7#32)]

/-- A state of section 2.9. -/
def paged (p : Priv) (status : Word) : State :=
  withWords tableT { State.reset with priv := p, csr := { Csrs.reset with satp := 0x80080010#32, mstatus := status } }

/-- The state after a translation. -/
def translated (a : Word) (k : Access) (s : State) : State := match translate a k s with
  | .ok _ t => t
  | .raise _ _ t => t
  | .refuse _ => s

/-- The address of a translation, or the cause it raises. -/
def answer (a : Word) (k : Access) (s : State) : PAddr ⊕ Nat := match translate a k s with
  | .ok pa _ => .inl pa
  | .raise e _ _ => .inr e.code
  | .refuse _ => .inr 99

theorem test_translate_base_page : answer 0x00400ABC#32 .R (paged .S 0#32) = .inl 0x80020ABC#34 := by decide

theorem test_translate_superpage : answer 0x00C12345#32 .R (paged .S 0#32) = .inl 0x80412345#34 := by decide

theorem test_translate_misaligned_superpage : answer 0x00800000#32 .R (paged .S 0#32) = .inr 13 := by decide

theorem test_translate_write_to_read_only : answer 0x00401004#32 .W (paged .S 0#32) = .inr 15 := by decide

theorem test_translate_walk_access_fault : answer 0x01400000#32 .X (paged .S 0#32) = .inr 1 := by decide

theorem test_translate_mxr : answer 0x00404000#32 .R (paged .S 0x00080000#32) = .inl 0x80024000#34 := by decide

theorem test_translate_mprv : answer 0x00400ABC#32 .R (paged .M 0x00020800#32) = .inl 0x80020ABC#34 := by decide

/-- T1 and T2 of section 2.9: a satp write drops the entry that is not global and keeps the one that is. -/
theorem test_satp_write_flushes :
    let s := translated 0x00408000#32 .R (translated 0x00400000#32 .R (paged .S 0#32))
    let u := csrWrite 0x180#12 0x80080010#32 (withWords [(0x80011000, 0#32), (0x80011020, 0#32)] s)
    answer 0x00400000#32 .R u = .inr 13 ∧ answer 0x00408000#32 .R u = .inl 0x80028000#34 := by
  decide +kernel

/-- T2 of section 2.9: SFENCE.VMA drops also the global entry. -/
theorem test_sfenceVma :
    (executed (.sfenceVma 5#5 6#5) (withWords [(0x80010800, 0#32)] (translated 0x80000000#32 .X (paged .S 0#32)))).map
      (answer 0x80000000#32 .X) = some (.inr 12) := by
  decide +kernel

/-- T5 of section 2.9: the ranks after four fills and a hit. -/
theorem test_ranks :
    let hit := fun (w : Vector TlbEntry 4) => promote w 0
    let e : TlbEntry := { TlbEntry.reset with valid := true }
    (hit (fill (fill (fill (fill (Vector.replicate 4 TlbEntry.reset) e) e) e) e)).toList.map (·.lru) = [3, 0, 1, 2] := by
  decide

/-! Section 2.10. -/

/-- The start state of section 2.10. -/
def short : State :=
  withWords [(0x80001004, 0xCAFEBABE#32), (0x8000300C, 0x12345678#32)]
    (at100 [(1#5, 0xAAAA0000#32), (2#5, 0x80003000#32), (5#5, 0x80002000#32), (8#5, 0x80001000#32), (9#5, 3#32),
      (10#5, 16#32), (11#5, 7#32), (15#5, 0xFFFFFFF0#32)])

theorem test_cAddi4spn : (run 0x1FE8 short).map (·.reg 10#5) = some 0x800033FC#32 := by decide

theorem test_cLw : (run 0x4044 short).map (·.reg 9#5) = some 0xCAFEBABE#32 := by decide

theorem test_cAddi : (run 0x157D short).map (·.reg 10#5) = some 0xF#32 := by decide

theorem test_cLi : (run 0x5501 short).map (·.reg 10#5) = some 0xFFFFFFE0#32 := by decide

theorem test_cAddi16sp : (run 0x7139 short).map (·.reg 2#5) = some 0x80002FC0#32 := by decide

theorem test_cLui : (run 0x7501 short).map (·.reg 10#5) = some 0xFFFE0000#32 := by decide

theorem test_cSrli : (run 0x8011 short).map (·.reg 8#5) = some 0x08000100#32 := by decide

theorem test_cSrai : (run 0x87FD short).map (·.reg 15#5) = some 0xFFFFFFFF#32 := by decide

theorem test_cAndi : (run 0x9941 short).map (·.reg 10#5) = some 0x10#32 := by decide

theorem test_cSub : (run 0x8C05 short).map (·.reg 8#5) = some 0x80000FFD#32 := by decide

theorem test_cXor : (run 0x8C25 short).map (·.reg 8#5) = some 0x80001003#32 := by decide

theorem test_cOr : (run 0x8C45 short).map (·.reg 8#5) = some 0x80001003#32 := by decide

theorem test_cAnd : (run 0x8C65 short).map (·.reg 8#5) = some 0x0#32 := by decide

theorem test_cSlli : (run 0x050E short).map (·.reg 10#5) = some 0x80#32 := by decide

theorem test_cLwsp : (run 0x4532 short).map (·.reg 10#5) = some 0x12345678#32 := by decide

theorem test_cMv : (run 0x852E short).map (·.reg 10#5) = some 0x7#32 := by decide

theorem test_cAdd : (run 0x952E short).map (·.reg 10#5) = some 0x17#32 := by decide

theorem test_cJal : (run 0x3FFD short).map (fun t => (t.pc, t.reg 1#5)) = some (0x800000FE#32, 0x80000102#32) := by decide

theorem test_cJ : (run 0xBFF5 short).map (fun t => (t.pc, t.reg 1#5)) = some (0x800000FC#32, 0xAAAA0000#32) := by decide

theorem test_cBeqz : (run 0xC401 short).map (fun t => (t.pc, t.reg 1#5)) = some (0x80000102#32, 0xAAAA0000#32) := by decide

theorem test_cBnez : (run 0xF381 short).map (fun t => (t.pc, t.reg 1#5)) = some (0x80000000#32, 0xAAAA0000#32) := by decide

theorem test_cJr : (run 0x8082 short).map (fun t => (t.pc, t.reg 1#5)) = some (0xAAAA0000#32, 0xAAAA0000#32) := by decide

theorem test_cJalr : (run 0x9282 short).map (fun t => (t.pc, t.reg 1#5)) = some (0x80002000#32, 0x80000102#32) := by decide

theorem test_cNop : (run 0x0001 short).map (fun t => (t.pc, t.reg 1#5)) = some (0x80000102#32, 0xAAAA0000#32) := by decide

theorem test_cSw : (run 0xC044 short).map (fun t => wordAt t.mem 0x80001004) = some 0x3#32 := by decide

theorem test_cSwsp : (run 0xDF86 short).map (fun t => wordAt t.mem 0x800030FC) = some 0xAAAA0000#32 := by decide

theorem test_cEbreak : (run 0x9002 short).map (fun t => (t.result, t.csr.mepc, t.csr.mtval)) =
    some (.trap 3#32, 0x80000100#32, 0#32) := by
  decide

/-! Section 2.11. -/

theorem test_fetch_across_a_page :
    (stepped (withWords [(0x80000FFC, 0x02930000#32), (0x80001000, 0x00000010#32)]
      { State.reset with pc := 0x80000FFE#32 })).map (fun t => (t.pc, t.reg 5#5)) = some (0x80001002#32, 1#32) := by
  decide

theorem test_fetch_second_half_outside_ram :
    (stepped (withWords [(0x87FFFFFC, 0x02930000#32)] { State.reset with pc := 0x87FFFFFE#32 })).map
      (fun t => (t.result, t.csr.mepc, t.csr.mtval)) = some (.trap 1#32, 0x87FFFFFE#32, 0x88000000#32) := by
  decide

theorem test_upper_half_ignored : (run 0xFFFF429D State.reset).map (fun t => (t.pc, t.reg 5#5)) =
    some (0x80000002#32, 7#32) := by
  decide

/-! ### The bus and Reset -/

/-- Reference RAM, 4 KiB of device at 0xC0000000. -/
def mapped : BusMap := Config.bus ++ [{ base := 0xC0000000, size := 4096, kind := .oracle }]

/-- One memory that serves misaligned accesses. -/
def lax : BusMap := [{ base := 0x80000000, size := 0x8000000, kind := .ram true }]

/-- Memory at every 32-bit address. -/
def everywhere : BusMap := [{ base := 0, size := 0x100000000, kind := .ram false }]

/-- How an access in two parts ends. -/
inductive SplitEnd where
  | lowRaises
  | lowRejected
  | highRaises
  | highRejected
  | done
deriving DecidableEq, Repr

/-- The two translations and bus calls of SplitAccesses, in turn. -/
def splitEnds (a : Word) (n : Nat) (low high : BusOp) (s : State) : SplitEnd :=
  match translate a (opKind low) s with
  | .ok p u =>
    if (busAnswer u low p n).status ≠ .ok then .lowRejected
    else match translate (a + BitVec.ofNat 32 n) (opKind low) (busAfter u low p n) with
      | .ok q w => if (busAnswer w high q n).status ≠ .ok then .highRejected else .done
      | _ => .highRaises
  | _ => .lowRaises

/-- 20_memory.md R106: where memory serves a misaligned access, it completes. -/
theorem test_lw_misaligned_served : (run 0x00252283 { data with bus := lax }).map (fun t => (t.result, t.reg 5#5)) =
    some (.noTrap, 0x03048182#32) := by
  decide

/-- R100, R105: no region is dispatched. -/
theorem test_no_region_is_an_access_fault : (stepped { State.reset with bus := [] }).map (fun t => (t.result, t.csr.mepc)) =
    some (.trap 1#32, 0x80000000#32) := by
  decide

/-- 70_reset_and_hazards.md R541: Reset of a running machine leaves memory. -/
theorem test_reset_keeps_memory : (run 0x0062A023 (regs [(5#5, 0x80001000#32), (6#5, 0x11223344#32)])).map
    (fun t => (t.pc, t.resetCore.pc, t.resetCore.reg 6#5, wordAt t.resetCore.mem 0x80001000)) =
    some (0x80000004#32, 0x80000000#32, 0#32, 0x11223344#32) := by
  decide

/-! ### Witnesses -/

/-- S-mode, translated, a NOP at the pc and a valid entry in the DTLB. -/
def running : State :=
  withWords [(0x80000000, 0x00000013#32)] (translated 0x00400000#32 .R (paged .S 0#32))

/-- The NOP at 0x80000000, run in M-mode. -/
def nopAtReset : State := withWords [(0x80000000, 0x00000013#32)] State.reset

theorem witness_DecodeOfEncode : (Instr.jal 1#5 0x100000#21).wf = true ∧ (Instr.cAddi4spn 2#3 1020#10).wf = true
    ∧ (Instr.cLui 31#5 0x20#6).wf = true := by
  decide

theorem witness_EncodeOfDecode : decode 0x80000063#32 = .ok (.beq 0#5 0#5 0x1000#13)
    ∧ decode 0xFFFF429D#32 = .ok (.cLi 5#5 7#6) := by
  decide

theorem witness_DecodeAgreesWithOpcodeTable :
    (opcodeTable.find? fun r => r.fits 0x002081B3#32).map (·.name) = some "ADD"
      ∧ decode 0x002081B3#32 = .ok (.add 3#5 1#5 2#5) := by
  decide

theorem witness_FetchFaultAndIllegalBitsTrap :
    (∃ e v u, (0x88000000#32).getLsbD 0 = false
        ∧ fetch (beginStep { State.reset with pc := 0x88000000#32 }) = .raise e v u)
      ∧ ∃ f u x, fetch (beginStep State.reset) = .ok f u ∧ decode f.raw = .error x :=
  ⟨⟨_, _, _, rfl, rfl⟩, ⟨_, _, _, rfl, rfl⟩⟩

/-- The first part: its translation raises; the bus rejects 4 bytes, and 2 bytes. -/
theorem witness_FetchFaultAndIllegalBitsTrap_first_part :
    (∃ e x u, translate 0x00405000#32 .X (beginStep { paged .S 0#32 with pc := 0x00405000#32 }) = .raise e x u)
      ∧ (∃ pa u, translate 0x88000000#32 .X (beginStep { State.reset with pc := 0x88000000#32 }) = .ok pa u
        ∧ (busAnswer u .read pa 4).status = .unmapped)
      ∧ ∃ pa u, translate 0x7FFFFFFE#32 .X (beginStep { State.reset with pc := 0x7FFFFFFE#32 }) = .ok pa u
        ∧ (busAnswer u .read pa 2).status = .unmapped :=
  ⟨⟨_, _, _, rfl⟩, ⟨_, _, rfl, by decide⟩, ⟨_, _, rfl, by decide⟩⟩

/-- The second part: its page is not mapped; it is outside RAM. -/
theorem witness_FetchFaultAndIllegalBitsTrap_second_part :
    let s := withWords [(0x80024FFC, 0x00130000#32)] { paged .S 0#32 with pc := 0x00404FFE#32 }
    let t := withWords [(0x87FFFFFC, 0x00130000#32)] { State.reset with pc := 0x87FFFFFE#32 }
    (∃ pa u, translate s.pc .X (beginStep s) = .ok pa u ∧ (busAnswer u .read pa 2).status = .ok
        ∧ (readData u pa 2).extractLsb' 0 2 = 3#2
        ∧ ∃ e x w, translate (s.pc + 2#32) .X (busAfter u .read pa 2) = .raise e x w)
      ∧ ∃ pa u, translate t.pc .X (beginStep t) = .ok pa u ∧ (busAnswer u .read pa 2).status = .ok
        ∧ (readData u pa 2).extractLsb' 0 2 = 3#2
        ∧ ∃ qa w, translate (t.pc + 2#32) .X (busAfter u .read pa 2) = .ok qa w
          ∧ (busAnswer w .read qa 2).status = .unmapped :=
  ⟨⟨_, _, rfl, by decide, by decide, _, _, _, rfl⟩, ⟨_, _, rfl, by decide, by decide, _, _, rfl, by decide⟩⟩

theorem witness_StepRunsFetchedInstruction :
    (∃ f u i, fetch (beginStep running) = .ok f u ∧ decode f.raw = .ok i
        ∧ ∃ t, exec i { u with nextPc := running.pc + f.len, rawInst := f.raw } = .next t)
      ∧ ∃ f u i, fetch (beginStep (withWords [(0x80000000, 0xFFD02283#32)] State.reset)) = .ok f u
        ∧ decode f.raw = .ok i
        ∧ exec i { u with nextPc := State.reset.pc + f.len, rawInst := f.raw } = .refused .threeBytePart :=
  ⟨⟨_, _, _, rfl, rfl, _, rfl⟩, ⟨_, _, _, rfl, rfl, rfl⟩⟩

theorem witness_StepRunsInstructionAtPc :
    let s := nopAtReset
    let i := Instr.addi 0#5 0#5 0#12
    i.wf = true ∧ s.pc.getLsbD 0 = false ∧ s.pc.getLsbD 1 = false ∧ (satpMode s.csr.satp = false ∨ s.priv = .M)
      ∧ RamCovers s.bus s.pc.toNat 4 ∧ wordAt s.mem s.pc.toNat = encode i := by
  decide

/-- Translated, through a superpage. -/
theorem witness_StepRunsInstructionAtPc_translated : running.pc.getLsbD 0 = false ∧ running.pc.getLsbD 1 = false
    ∧ ∃ pa u, translate running.pc .X (beginStep running) = .ok pa u ∧ (busAnswer u .read pa 4).status = .ok
      ∧ RamCovers running.bus pa.toNat 4 ∧ wordAt running.mem pa.toNat = encode (.addi 0#5 0#5 0#12) :=
  ⟨by decide, by decide, _, _, rfl, by decide, by decide, by decide⟩

/-- Translated, an instruction in two parts across a page boundary. -/
theorem witness_StepRunsInstructionAtPc_two_parts :
    let s := withWords [(0x80000FFC, 0x00130000#32)] { paged .S 0#32 with pc := 0x80000FFE#32 }
    s.pc.getLsbD 0 = false ∧ s.pc.getLsbD 1 = true
      ∧ ∃ pa u, translate s.pc .X (beginStep s) = .ok pa u ∧ (busAnswer u .read pa 2).status = .ok
        ∧ (readData u pa 2).extractLsb' 0 2 = 3#2 ∧ RamCovers s.bus pa.toNat 2
        ∧ ∃ qa v, translate (s.pc + 2#32) .X u = .ok qa v ∧ (busAnswer v .read qa 2).status = .ok
          ∧ RamCovers s.bus qa.toNat 2
          ∧ halfAt s.mem qa.toNat ++ halfAt s.mem pa.toNat = encode (.addi 0#5 0#5 0#12) :=
  ⟨by decide, by decide, _, _, rfl, by decide, by decide, by decide, _, _, rfl, by decide, by decide, by decide⟩

theorem witness_StepRunsInstructionAtPc_compressed_last_word_of_ram :
    let s := withWords [(0x87FFFFFC, 0x0000429D#32)] { State.reset with pc := 0x87FFFFFC#32 }
    let i := Instr.cLi 5#5 7#6
    i.wf = true ∧ s.pc.getLsbD 0 = false ∧ s.pc.getLsbD 1 = false ∧ (satpMode s.csr.satp = false ∨ s.priv = .M)
      ∧ RamCovers s.bus s.pc.toNat 4 ∧ (halfAt s.mem s.pc.toNat).setWidth 32 = encode i := by
  decide

/-- The last halfword of RAM, and the last halfword of the address space. -/
theorem witness_StepRunsInstructionAtPc_compressed_last_halfword :
    let i := Instr.cLi 5#5 7#6
    let holds := fun s : State => i.compressed = true ∧ s.pc.getLsbD 0 = false ∧ s.pc.getLsbD 1 = true ∧ s.priv = .M
      ∧ RamCovers s.bus s.pc.toNat 2 ∧ (halfAt s.mem s.pc.toNat).setWidth 32 = encode i
    holds (withWords [(0x87FFFFFC, 0x429D0000#32)] { State.reset with pc := 0x87FFFFFE#32 })
      ∧ holds (withWords [(0xFFFFFFFC, 0x429D0000#32)] { State.reset with pc := 0xFFFFFFFE#32, bus := everywhere }) := by
  decide

/-- The two halves of an instruction at the end and the beginning of the address space. -/
theorem witness_StepRunsInstructionAtPc_wraps :
    let s := withWords [(0, 0x00000000#32), (0xFFFFFFFC, 0x00130000#32)]
      { State.reset with pc := 0xFFFFFFFE#32, bus := everywhere }
    let i := Instr.addi 0#5 0#5 0#12
    i.compressed = false ∧ s.pc.getLsbD 0 = false ∧ s.pc.getLsbD 1 = true ∧ s.priv = .M
      ∧ RamCovers s.bus s.pc.toNat 2 ∧ RamCovers s.bus (s.pc + 2#32).toNat 2
      ∧ halfAt s.mem (s.pc + 2#32).toNat ++ halfAt s.mem s.pc.toNat = encode i := by
  decide

/-- 40_step.md R231: at pc 2 mod 4 a halfword is fetched alone, so the end of memory is no fault. -/
theorem test_compressed_in_the_last_halfword :
    (stepped (withWords [(0x87FFFFFC, 0x429D0000#32)] { State.reset with pc := 0x87FFFFFE#32 })).map
      (fun t => (t.pc, t.reg 5#5)) = some (0x88000000#32, 7#32) := by
  decide

theorem witness_StepKeeps_legal : Legal running := by decide +kernel

theorem witness_StepKeeps_steps : ∃ t, step running = .next t := ⟨_, rfl⟩

theorem witness_ReachableStatesAreLegal :
    Reachable ((State.reset.preSeed).injectInterrupts true false true)
      ∧ ∀ t, step State.reset = .next t → Reachable (t.resetCore.preSeed) :=
  ⟨⟨_, .inject _ _ _ (.preSeed (.powerOn Config.bus))⟩,
    fun _ h => ⟨_, .preSeed (.reset (.step (.powerOn Config.bus) h))⟩⟩

theorem witness_ResetState : (csrRow 0x301#12).isSome = true ∧ (csrRow 0xC80#12).isSome = true := by decide

theorem witness_StepAnswersOrIsThreeBytePart : State.reset.pc.getLsbD 0 = false
    ∧ step (withWords [(0x80000000, 0xFFD02283#32)] State.reset) = .refused .threeBytePart :=
  ⟨by decide, rfl⟩

theorem witness_RefusedIffThreeBytePart : exec (.lw 5#5 0#5 0xFFD#12) State.reset = .refused .threeBytePart
    ∧ exec (.sw 5#5 0#5 0xFFF#12) State.reset = .refused .threeBytePart
    ∧ (∃ t, exec (.lw 5#5 0#5 0xFFE#12) State.reset = .next t) ∧ ∃ t, exec (.lh 5#5 0#5 0xFFF#12) State.reset = .next t :=
  ⟨rfl, rfl, ⟨_, rfl⟩, ⟨_, rfl⟩⟩

theorem witness_OnlyDestinationRegisterChanges : (∃ t, exec (.add 3#5 1#5 2#5) data = .next t)
    ∧ ∃ t, exec (.lw 5#5 10#5 2#12) data = .next t :=
  ⟨⟨_, rfl⟩, ⟨_, rfl⟩⟩

theorem witness_OnlyStoresChangeMemory : writesMemory (.lw 5#5 10#5 0#12) = false
    ∧ ∃ t, exec (.lw 5#5 10#5 0#12) data = .next t :=
  ⟨rfl, ⟨_, rfl⟩⟩

theorem witness_ReservationChangesOnlyByLrSc : (∃ t, exec (.lrW false false 5#5 10#5) data = .next t)
    ∧ (∃ t, exec (.scW false false 7#5 6#5 10#5) data = .next t) ∧ ∃ t, step running = .next t :=
  ⟨⟨_, rfl⟩, ⟨_, rfl⟩, ⟨_, rfl⟩⟩

theorem witness_ExceptionsArePrecise : data.result.isTrap = false
    ∧ ∃ t, exec (.lw 5#5 10#5 2#12) data = .next t ∧ t.result.isTrap = true :=
  ⟨rfl, ⟨_, rfl, rfl⟩⟩

theorem witness_UserModeAndPlainInstructionsKeepCsrs :
    let s := { data with priv := .U }
    s.priv = .U ∧ s.result.isTrap = false ∧ ∃ t, exec (.lw 5#5 10#5 0#12) s = .next t ∧ t.result.isTrap = false :=
  ⟨rfl, rfl, ⟨_, rfl, rfl⟩⟩

theorem witness_PrivilegeRisesOnlyIntoHandler :
    let s := withWords [(0x80000000, 0x00000073#32)] (trapState .U fun c => { c with medeleg := 0x100#32 })
    ∃ t, step s = .next t ∧ s.priv.below t.priv = true :=
  ⟨_, rfl, rfl⟩

theorem witness_TrapEntryWrites_delegated_cause_15 :
    let s := trapState .S fun c => { c with medeleg := 0xB3FF#32 }
    s.priv ≠ .M ∧ s.csr.medeleg.getLsbD 15 = true := by
  decide

theorem witness_TrapEntryWrites_not_delegated_cause_0 :
    (State.reset.priv = .M) ∧ (trapState .U id).csr.medeleg.getLsbD 0 = false := by
  decide

theorem witness_TrapEntryLeavesAlone :
    (trapEntry false 8 0#32 0#32 (trapState .U fun c => { c with medeleg := 0x100#32 })).priv = .S
      ∧ (trapEntry true 7 0#32 0#32 (trapState .U id)).priv = .M := by
  decide

/-- Timer and software pending and enabled in M-mode. -/
def pendingM : State :=
  trapState .M fun c => { c with mstatus := 8#32, mie := 0x888#32, mip := 0x88#32 }

theorem witness_InterruptCheckTakesHighest : HighestTakeable pendingM 7 := by decide

theorem witness_InterruptCheckTakesHighest_cause_11 :
    HighestTakeable (trapState .U fun c => { c with mie := 0x888#32, mip := 0x888#32 }) 11 := by
  decide

theorem witness_InterruptCheckTakesHighest_none : ∀ i, i < 12 → ¬ CanTake State.reset i := by decide

theorem witness_TrapReturns : State.reset.priv = .M ∧ PreviousPrivilegeLegal State.reset ∧ State.reset.priv ≠ .U := by
  decide

theorem witness_TrapReturns_to_s :
    let s := trapState .M fun c => { c with mstatus := 0x20880#32 }
    s.priv = .M ∧ PreviousPrivilegeLegal s := by
  decide

theorem witness_PrivilegedFormsTrapBelow :
    let s := trapState .S fun c => { c with mstatus := 0x00100000#32 }
    s.priv ≠ .M ∧ (trapState .U id).priv = .U ∧ s.priv = .S ∧ statusTVM s.csr.mstatus = true := by
  decide

/-- commitPc is the commit that the statement writes out. -/
theorem witness_WaitForInterrupt :
    HighestTakeable (commitPc pendingM) 7
      ∧ ∀ i, i < 12 → ¬ CanTake (commitPc State.reset) i :=
  ⟨by decide, by decide⟩

theorem witness_CycleCounterCountsCommits : (∃ t, step running = .next t) ∧ ∃ t, step State.reset = .next t :=
  ⟨⟨_, rfl⟩, ⟨_, rfl⟩⟩

theorem witness_CsrInstructionResults : csrCheck 0x340#12 false State.reset = true
    ∧ csrCheck 0x340#12 true State.reset = true := by
  decide

theorem witness_CsrInstructionResults_satp_in_s :
    csrCheck 0x180#12 false (trapState .S id) = true ∧ csrCheck 0x180#12 true (trapState .S id) = true := by
  decide

theorem witness_CsrGateFailureTraps : csrCheck 0x300#12 false (trapState .S id) = false
    ∧ csrCheck 0xC00#12 true State.reset = false ∧ csrCheck 0xC00#12 false State.reset = true := by
  decide

theorem witness_CsrReadAndWriteMasks : (csrRow 0x341#12).isSome = true ∧ (csrRow 0x180#12).isSome = true := by decide

theorem witness_CsrReadAndWriteMasks_mpp :
    ((csrRow 0x300#12).map fun r =>
      (r.slot, statusMPP ((0x1800#32 &&& ~~~ r.wmask) ||| (0x1008#32 &&& r.wmask)),
        statusMPP ((0x1800#32 &&& ~~~ r.wmask) ||| (0x0808#32 &&& r.wmask)))) = some (.mstatus, 2#2, 1#2) := by
  decide

theorem witness_FencesAndTranslationFlush : State.reset.priv = .M
    ∧ running.priv = .S ∧ statusTVM running.csr.mstatus = false := by
  decide

theorem witness_IdentityBypass : satpMode State.reset.csr.satp = false
    ∧ (let s := paged .S 0x00021800#32
      Access.R ≠ .X ∧ statusMPRV s.csr.mstatus = true ∧ statusMPP s.csr.mstatus = 3#2)
    ∧ (paged .M 0#32).priv = .M ∧ satpMode (paged .M 0#32).csr.satp = true := by
  decide

/-- In M-mode under MPRV with MPP = U and S. -/
theorem witness_IdentityBypass_mprv :
    let u := paged .M 0x00020000#32
    let t := paged .M 0x00020800#32
    (statusMPRV u.csr.mstatus = true ∧ statusMPP u.csr.mstatus ≠ 2#2 ∧ Priv.U.bits = statusMPP u.csr.mstatus
        ∧ bypasses .R u = false)
      ∧ statusMPRV t.csr.mstatus = true ∧ statusMPP t.csr.mstatus ≠ 2#2 ∧ Priv.S.bits = statusMPP t.csr.mstatus
        ∧ bypasses .W t = false ∧ bypasses .X t = true := by
  decide

theorem witness_PermissionCheck : PermissionDenied 0x20008443#32 .W .S 0#32
    ∧ ¬ PermissionDenied 0x20008443#32 .R .S 0#32 := by
  decide

/-- The root entry of an address of page table T, or the one the walk reads next. -/
def rootOf (a : Word) : Word := wordAt (paged .S 0#32).mem ((satpPpn 0x80080010#32).toNat * 4096 + (vpn1 a).toNat * 4)

/-- The level-0 address of an address of page table T. -/
def leafAddr (a : Word) : Nat := (ptePpn (rootOf a)).toNat * 4096 + (vpn0 a).toNat * 4

/-- The last root entry below RAM, its first and last ones, and the first above it. -/
theorem witness_WalkByCases_ram_boundary :
    let status := fun (satp va : Word) =>
      (busAnswer State.reset .read (BitVec.ofNat 34 ((satpPpn satp).toNat * 4096 + (vpn1 va).toNat * 4)) 4).status
    status 0x8007FFFF#32 0xFFC00000#32 = .unmapped ∧ status 0x80080000#32 0#32 = .ok
      ∧ status 0x80087FFF#32 0xFFC00000#32 = .ok ∧ status 0x80088000#32 0#32 = .unmapped
      ∧ status 0x803FFFFF#32 0xFFC00000#32 = .unmapped := by
  decide

theorem witness_WalkByCases_root : (pteV (rootOf 0x01000000#32) = false)
    ∧ (pteV (rootOf 0x00C00000#32) = true ∧ pteR (rootOf 0x00C00000#32) = true ∧ ptePpn0 (rootOf 0x00C00000#32) = 0#10)
    ∧ (pteV (rootOf 0x00800000#32) = true ∧ pteR (rootOf 0x00800000#32) = true
      ∧ ptePpn0 (rootOf 0x00800000#32) ≠ 0#10) := by
  decide

theorem witness_WalkByCases_level_0 :
    let pointer := fun p : Word => pteV p = true ∧ pteR p = false ∧ pteW p = false ∧ pteX p = false
    let status := fun a : Word => (busAnswer (paged .S 0#32) .read (BitVec.ofNat 34 (leafAddr a)) 4).status
    (pointer (rootOf 0x01400000#32) ∧ status 0x01400000#32 = .unmapped)
      ∧ (pointer (rootOf 0x00402000#32) ∧ status 0x00402000#32 = .ok
        ∧ pteV (wordAt (paged .S 0#32).mem (leafAddr 0x00402000#32)) = false)
      ∧ (let p0 := wordAt (paged .S 0#32).mem (leafAddr 0x00406000#32)
        pteR p0 = false ∧ pteW p0 = true)
      ∧ (let p0 := wordAt (paged .S 0#32).mem (leafAddr 0x00400000#32)
        pteV p0 = true ∧ pteR p0 = true) := by
  decide

theorem witness_TranslationAfterWalk_base :
    let s := paged .S 0#32
    (bypasses .R s = false ∧ hitSuper 0x00400ABC#32 s = none ∧ hitBase 0x00400ABC#32 .R s = none
      ∧ walk 0x00400ABC#32 .R s = .ok (0x200080C7#32, .basePage) s)
      ∧ ¬ PermissionDenied 0x200080C7#32 .R (effectivePriv .R s) s.csr.mstatus :=
  ⟨⟨rfl, rfl, rfl, rfl⟩, by decide⟩

theorem witness_TranslationAfterWalk_super_denied :
    let s := paged .S 0#32
    (bypasses .X s = false ∧ hitSuper 0x00C12345#32 s = none ∧ hitBase 0x00C12345#32 .X s = none
      ∧ walk 0x00C12345#32 .X s = .ok (0x201000C7#32, .superPage) s)
      ∧ PermissionDenied 0x201000C7#32 .X (effectivePriv .X s) s.csr.mstatus :=
  ⟨⟨rfl, rfl, rfl, rfl⟩, by decide⟩

theorem witness_TranslationAfterWalk_raises :
    let s := paged .S 0#32
    bypasses .W s = false ∧ hitSuper 0x00402000#32 s = none ∧ hitBase 0x00402000#32 .W s = none
      ∧ ∃ e v w, walk 0x00402000#32 .W s = .raise e v w :=
  ⟨rfl, rfl, rfl, _, _, _, rfl⟩

theorem witness_TranslationRepeats :
    ∃ pa u, translate 0x00400ABC#32 .R (paged .S 0#32) = .ok pa u :=
  ⟨_, _, rfl⟩

/-- Empty tables over page table T. -/
theorem witness_TranslationRepeats_coherent :
    let s := paged .S 0#32
    TlbLegal s ∧ TlbCoherent s ∧ RamOnly s.bus := by
  refine ⟨by decide +kernel, fun va kind => ⟨fun j h => ?_, fun j h => ?_, fun j h => ?_⟩, by decide⟩
  all_goals simp [paged, withWords, State.reset, superMatch, baseMatch, TlbEntry.reset] at h

theorem witness_CachedTranslationIgnoresMemory :
    bypasses .R running = false ∧ hitSuper 0x00400ABC#32 running = none
      ∧ ∃ e u, hitBase 0x00400ABC#32 .R running = some (e, u)
        ∧ ¬ PermissionDenied e.pte .R (effectivePriv .R running) running.csr.mstatus :=
  ⟨rfl, rfl, _, _, rfl, by decide⟩

/-- A way that serves, with none before it, in the superpage TLB, the ITLB and the DTLB; and a table none of whose ways
does. -/
theorem witness_CachedTranslationIgnoresMemory_lookup :
    let s := translated 0x00404000#32 .X (translated 0x00400000#32 .R (translated 0x80000000#32 .X (paged .S 0#32)))
    (s.stlb[0].valid = true ∧ s.stlb[0].vpn.extractLsb' 10 10 = (0x803FFFFC#32).extractLsb' 22 10 ∧ s.stlb[0].global = true)
      ∧ (let e := s.itlb[setIndex Config.itlbSets 0x00404000#32][0]
        e.valid = true ∧ e.vpn = (0x00404FFE#32).extractLsb' 12 20)
      ∧ (let e := s.dtlb[setIndex Config.dtlbSets 0x00400000#32][0]
        e.valid = true ∧ e.vpn = (0x00400ABC#32).extractLsb' 12 20)
      ∧ (∀ k : Fin Config.stlbEntries, State.reset.stlb[k].valid = false)
      ∧ ∀ k : Fin Config.itlbWays, State.reset.itlb[setIndex Config.itlbSets 0#32][k].valid = false := by
  decide +kernel

/-- A read-only page in the DTLB, written: the stale entry faults. -/
theorem witness_CachedTranslationIgnoresMemory_denied :
    let s := translated 0x00401000#32 .R (paged .S 0#32)
    bypasses .W s = false ∧ hitSuper 0x00401004#32 s = none
      ∧ ∃ e u, hitBase 0x00401004#32 .W s = some (e, u)
        ∧ PermissionDenied e.pte .W (effectivePriv .W s) s.csr.mstatus :=
  ⟨rfl, rfl, _, _, rfl, by decide⟩

theorem witness_CachedTranslationIgnoresMemory_super :
    let s := translated 0x80000000#32 .X (paged .S 0#32)
    bypasses .W s = false ∧ ∃ e u, hitSuper 0x803FFFFC#32 s = some (e, u)
      ∧ ¬ PermissionDenied e.pte .W (effectivePriv .W s) s.csr.mstatus :=
  ⟨rfl, _, _, rfl, by decide⟩

theorem witness_PromotionAndEviction :
    let full : TlbEntry := { TlbEntry.reset with valid := true }
    let free : Vector TlbEntry 2 := #v[full, TlbEntry.reset]
    let used : Vector TlbEntry 2 := #v[{ full with lru := 1 }, full]
    (free[1].valid = false ∧ ∀ j : Fin 2, j < 1 → free[j].valid = true)
      ∧ (∀ j : Fin 2, used[j].valid = true) ∧ (∀ j : Fin 2, used[1].lru ≤ used[j].lru)
      ∧ ∀ j : Fin 2, j < 1 → used[1].lru < used[j].lru := by
  decide

theorem witness_StoreThenLoad : data.mem.wf = true ∧ (∃ r : Region, data.bus = [r] ∧ r.kind ≠ .oracle)
    ∧ satpMode data.csr.satp = false ∧ (∃ u, memWrite 0x80001FFC#32 .word 0x11223344#32 data = .ok () u)
    ∧ ∃ u, memWrite 0x80001FFE#32 .word 0x11223344#32 data = .ok () u :=
  ⟨by decide, ⟨_, rfl, by decide⟩, by decide, ⟨_, rfl⟩, ⟨_, rfl⟩⟩

/-- Memory that serves misaligned accesses, inside one page. -/
theorem witness_StoreThenLoad_misaligned :
    ∃ u, memWrite 0x80001FFB#32 .word 0x11223344#32 { data with bus := lax } = .ok () u :=
  ⟨_, rfl⟩

theorem witness_LoadsInPage : (∃ pa u, Reaches 0x80001FFF#32 .byte .read data pa u)
    ∧ (∃ pa u, Reaches 0x80001FFE#32 .half .read data pa u) ∧ (∃ pa u, Reaches 0x80001FFC#32 .word .read data pa u)
    ∧ ∃ pa u, Reaches 0x00400ABC#32 .word .read running pa u :=
  ⟨⟨_, _, by decide, rfl, by decide⟩, ⟨_, _, by decide, rfl, by decide⟩, ⟨_, _, by decide, rfl, by decide⟩,
    ⟨_, _, by decide, rfl, by decide⟩⟩

theorem witness_LoadsInPage_compressed : (∃ pa u, Reaches (short.reg (1#2 ++ 0#3) + 4#32) .word .read short pa u)
    ∧ ∃ pa u, Reaches (short.reg 2#5 + 12#32) .word .read short pa u :=
  ⟨⟨_, _, by decide, rfl, by decide⟩, ⟨_, _, by decide, rfl, by decide⟩⟩

theorem witness_StoresInPage : data.mem.wf = true ∧ (∃ pa u, Reaches 0x80001FFF#32 .byte (.write 1#32) data pa u)
    ∧ (∃ pa u, Reaches 0x80001FFE#32 .half (.write 2#32) data pa u)
    ∧ (∃ pa u, Reaches 0x80001FFC#32 .word (.write 3#32) data pa u)
    ∧ ∃ pa u, Reaches 0x00400ABC#32 .word (.write 4#32) running pa u :=
  ⟨by decide, ⟨_, _, by decide, rfl, by decide⟩, ⟨_, _, by decide, rfl, by decide⟩, ⟨_, _, by decide, rfl, by decide⟩,
    ⟨_, _, by decide, rfl, by decide⟩⟩

theorem witness_StoresInPage_compressed : short.mem.wf = true
    ∧ (∃ pa u, Reaches (short.reg (1#2 ++ 0#3) + 4#32) .word (.write 3#32) short pa u)
    ∧ ∃ pa u, Reaches (short.reg 2#5 + 252#32) .word (.write 0xAAAA0000#32) short pa u :=
  ⟨by decide, ⟨_, _, by decide, rfl, by decide⟩, ⟨_, _, by decide, rfl, by decide⟩⟩

theorem witness_SplitAccesses_loads :
    (accessOf data (.lh 5#5 11#5 0x7FF#12) = some (.half, .read, 0x80001FFF#32)
        ∧ splitEnds 0x80001FFF#32 1 .read .read data = .done)
      ∧ accessOf data (.lw 5#5 11#5 0x7FE#12) = some (.word, .read, 0x80001FFE#32)
        ∧ splitEnds 0x80001FFE#32 2 .read .read data = .done := by
  decide

theorem witness_SplitAccesses_load_faults :
    splitEnds 0x00402FFE#32 2 .read .read running = .lowRaises
      ∧ splitEnds 0x7FFFFFFE#32 2 .read .read data = .lowRejected
      ∧ splitEnds 0x00401FFF#32 1 .read .read running = .highRaises
      ∧ splitEnds 0x87FFFFFE#32 2 .read .read data = .highRejected := by
  decide

theorem witness_SplitAccesses_store : data.mem.wf = true
    ∧ accessOf data (.sw 6#5 11#5 0x7FE#12) = some (.word, .write 0xA1B2C3D4#32, 0x80001FFE#32)
    ∧ splitEnds 0x80001FFE#32 2 (.write 0xA1B2C3D4#32) (.write 0xA1B2#32) data = .done := by
  decide

theorem witness_SplitAccesses_store_faults :
    splitEnds 0x00401FFE#32 2 (.write 0x5A#32) (.write 0#32) running = .lowRaises
      ∧ splitEnds 0x7FFFFFFF#32 1 (.write 0x5A#32) (.write 0#32) data = .lowRejected
      ∧ splitEnds 0x00400FFF#32 1 (.write 0x5A#32) (.write 0#32) running = .highRaises
      ∧ splitEnds 0x87FFFFFE#32 2 (.write 0x5A#32) (.write 0#32) data = .highRejected := by
  decide

theorem witness_AccessExceptions :
    State.reset.bus = Config.bus ∧ servedBy mapped 0xC0000FFC 4 = some .oracle ∧ servedBy mapped 0xC0000FFD 4 = none
      ∧ accessOf data (.lw 5#5 10#5 2#12) = some (.word, .read, 0x80001002#32)
      ∧ (pageOffset 0x80001002#32).toNat + 4 ≤ 4096
      ∧ (∃ pa u, translate 0x80001002#32 .R data = .ok pa u ∧ (busAnswer u .read pa 4).status = .align)
      ∧ (∃ pa u, translate 0x7FFFFFFC#32 .W data = .ok pa u ∧ (busAnswer u (.write 1#32) pa 4).status = .unmapped)
      ∧ (∃ e v u, translate 0x00402000#32 .R running = .raise e v u)
      ∧ (0x80001002#32).extractLsb' 0 2 ≠ 0#2 :=
  ⟨by decide, by decide, by decide, by decide, by decide, ⟨_, _, rfl, by decide⟩, ⟨_, _, rfl, by decide⟩, ⟨_, _, _, rfl⟩,
    by decide⟩

theorem witness_LoadReservedStoreConditional :
    let s : State := { data with resv := some 0x80001000#32 }
    (s.reg 10#5).extractLsb' 0 2 = 0#2 ∧ s.mem.wf = true ∧ s.resv = some (s.reg 10#5)
      ∧ (∃ pa u, translate (s.reg 10#5) .R s = .ok pa u ∧ (busAnswer u .read pa 4).status = .ok)
      ∧ ∃ pa u, translate (s.reg 10#5) .W { s with resv := none } = .ok pa u
        ∧ (busAnswer u (.write (s.reg 6#5)) pa 4).status = .ok :=
  ⟨by decide, by decide, by decide, ⟨_, _, rfl, by decide⟩, ⟨_, _, rfl, by decide⟩⟩

theorem witness_LoadReservedStoreConditional_other_address : (data.reg 10#5).extractLsb' 0 2 = 0#2
    ∧ data.resv ≠ some (data.reg 10#5) := by
  decide

theorem witness_LoadReservedStoreConditional_translation_faults :
    let s : State := { withRegs [(10#5, 0x00401000#32), (11#5, 0x00402000#32)] running with resv := some 0x00401000#32 }
    (s.reg 10#5).extractLsb' 0 2 = 0#2 ∧ s.mem.wf = true ∧ s.resv = some (s.reg 10#5)
      ∧ (s.reg 11#5).extractLsb' 0 2 = 0#2 ∧ (∃ e v u, translate (s.reg 11#5) .R s = .raise e v u)
      ∧ ∃ e v u, translate (s.reg 10#5) .W { s with resv := none } = .raise e v u :=
  ⟨by decide, by decide, by decide, by decide, ⟨_, _, _, rfl⟩, ⟨_, _, _, rfl⟩⟩

theorem witness_LoadReservedStoreConditional_bus_rejects :
    let s : State := { regs [(10#5, 0x88000000#32)] with resv := some 0x88000000#32 }
    (s.reg 10#5).extractLsb' 0 2 = 0#2 ∧ s.mem.wf = true ∧ s.resv = some (s.reg 10#5)
      ∧ (∃ pa u, translate (s.reg 10#5) .R s = .ok pa u ∧ (busAnswer u .read pa 4).status = .unmapped)
      ∧ ∃ pa u, translate (s.reg 10#5) .W { s with resv := none } = .ok pa u
        ∧ (busAnswer u (.write 0#32) pa 4).status = .unmapped :=
  ⟨by decide, by decide, by decide, ⟨_, _, rfl, by decide⟩, ⟨_, _, rfl, by decide⟩⟩

theorem witness_AmoResults : (data.reg 10#5).extractLsb' 0 2 = 0#2 ∧ data.mem.wf = true
    ∧ ∃ pa u, translate (data.reg 10#5) .W data = .ok pa u ∧ (busAnswer u .read pa 4).status = .ok
      ∧ (busAnswer (busAfter u .read pa 4) (.write 5#32) pa 4).status = .ok :=
  ⟨by decide, by decide, ⟨_, _, rfl, by decide, by decide⟩⟩

theorem witness_AmoResults_faults :
    let s := withRegs [(10#5, 0x00401000#32)] running
    let r := regs [(10#5, 0x7FFFFFFC#32)]
    ((s.reg 10#5).extractLsb' 0 2 = 0#2 ∧ s.mem.wf = true ∧ ∃ e v u, translate (s.reg 10#5) .W s = .raise e v u)
      ∧ (r.reg 10#5).extractLsb' 0 2 = 0#2 ∧ r.mem.wf = true
        ∧ ∃ pa u, translate (r.reg 10#5) .W r = .ok pa u ∧ (busAnswer u .read pa 4).status = .unmapped :=
  ⟨⟨by decide, by decide, ⟨_, _, _, rfl⟩⟩, by decide, by decide, ⟨_, _, rfl, by decide⟩⟩

theorem witness_CompressedRunsAsExpansion : (Instr.cAddi16sp 0x3C0#10).wf = true
    ∧ (Instr.cAddi16sp 0x3C0#10).compressed = true ∧ (Instr.add 3#5 1#5 2#5).wf = true
    ∧ (Instr.add 3#5 1#5 2#5).compressed = false := by
  decide

end Sys2Proof.Tests
end

section
/-! The decoder yields only instructions that an encoding expresses (30_encoding.md R193, 48_compressed.md). -/

namespace Sys2Proof

theorem isEven_append_zero {n : Nat} (hi : BitVec n) : isEven (hi ++ 0#1) = true := by
  simp only [isEven, BitVec.getLsbD_append]; rfl

theorem decodeLoad_wf {w : Word} {i : Instr} (h : decodeLoad w = .ok i) : i.wf = true := by
  unfold decodeLoad at h
  split at h <;> cases h <;> rfl

theorem decodeStore_wf {w : Word} {i : Instr} (h : decodeStore w = .ok i) : i.wf = true := by
  unfold decodeStore at h
  split at h <;> cases h <;> rfl

theorem decodeBranch_wf {w : Word} {i : Instr} (h : decodeBranch w = .ok i) : i.wf = true := by
  unfold decodeBranch at h
  split at h <;> cases h <;> exact isEven_append_zero _

theorem decodeOpImm_wf {w : Word} {i : Instr} (h : decodeOpImm w = .ok i) : i.wf = true := by
  unfold decodeOpImm at h
  dsimp only at h
  repeat' split at h
  all_goals cases h <;> rfl

theorem decodeOpBase_wf (f3 : BitVec 3) (rd rs1 rs2 : Reg) : (decodeOpBase f3 rd rs1 rs2).wf = true := by
  unfold decodeOpBase
  split <;> rfl

theorem decodeOpMul_wf (f3 : BitVec 3) (rd rs1 rs2 : Reg) : (decodeOpMul f3 rd rs1 rs2).wf = true := by
  unfold decodeOpMul
  split <;> rfl

theorem decodeOp_wf {w : Word} {i : Instr} (h : decodeOp w = .ok i) : i.wf = true := by
  unfold decodeOp at h
  dsimp only at h
  split at h
  · cases h; exact decodeOpBase_wf _ _ _ _
  · cases h; exact decodeOpMul_wf _ _ _ _
  · split at h <;> cases h <;> rfl
  · cases h

theorem decodeMiscMem_wf {w : Word} {i : Instr} (h : decodeMiscMem w = .ok i) : i.wf = true := by
  unfold decodeMiscMem at h
  split at h <;> cases h <;> rfl

theorem decodeSystem_wf {w : Word} {i : Instr} (h : decodeSystem w = .ok i) : i.wf = true := by
  unfold decodeSystem at h
  dsimp only at h
  repeat' split at h
  all_goals cases h <;> rfl

theorem decodeAmo_wf {w : Word} {i : Instr} (h : decodeAmo w = .ok i) : i.wf = true := by
  unfold decodeAmo at h
  dsimp only at h
  repeat' split at h
  all_goals cases h <;> rfl

theorem decode32_wf {w : Word} {i : Instr} (h : decode32 w = .ok i) : i.wf = true := by
  unfold decode32 at h
  dsimp only at h
  split at h
  · exact decodeLoad_wf h
  · exact decodeMiscMem_wf h
  · exact decodeOpImm_wf h
  · cases h; rfl
  · exact decodeStore_wf h
  · exact decodeAmo_wf h
  · exact decodeOp_wf h
  · cases h; rfl
  · exact decodeBranch_wf h
  · split at h <;> cases h; rfl
  · cases h; exact isEven_append_zero _
  · exact decodeSystem_wf h
  · cases h

theorem decodeQuadrant0_wf {c : Half} {i : Instr} (h : decodeQuadrant0 c = .ok i) : i.wf = true := by
  unfold decodeQuadrant0 at h
  dsimp only at h
  split at h
  · split at h
    · cases h
    · rename_i hne
      cases h
      exact Bool.and_eq_true_iff.2 ⟨beq_iff_eq.2 BitVec.extractLsb'_append_eq_right, bne_iff_ne.2 hne⟩
  · cases h; exact beq_iff_eq.2 BitVec.extractLsb'_append_eq_right
  · cases h; exact beq_iff_eq.2 BitVec.extractLsb'_append_eq_right
  · cases h

theorem decodeCArith_wf {c : Half} {i : Instr} (h : decodeCArith c = .ok i) : i.wf = true := by
  unfold decodeCArith at h
  dsimp only at h
  repeat' split at h
  all_goals cases h <;> rfl

theorem eq_zero_of_append_eq_zero {n m : Nat} {hi : BitVec n} {lo : BitVec m} (h : hi ++ lo = 0#_) :
    hi = 0#n ∧ lo = 0#m := by
  have bit := fun k => congrArg (BitVec.getLsbD · k) h
  simp only [BitVec.getLsbD_append, BitVec.getLsbD_zero] at bit
  constructor
  · refine BitVec.eq_of_getLsbD_eq fun k _ => ?_
    have := bit (m + k)
    rw [if_neg (by omega), Nat.add_sub_cancel_left] at this
    simpa using this
  · refine BitVec.eq_of_getLsbD_eq fun k hk => ?_
    have := bit k
    rw [if_pos hk] at this
    simpa using this

/-- C.ADDI16SP only permutes its six immediate bits, so its offset is 0 only where the field is (R439). -/
theorem addi16spImm_eq_zero {c : Half}
    (h : c.extractLsb' 12 1 ++ c.extractLsb' 3 2 ++ c.extractLsb' 5 1 ++ c.extractLsb' 2 1 ++ c.extractLsb' 6 1 ++ 0#4
      = 0#_) : c.extractLsb' 12 1 ++ c.extractLsb' 2 5 = 0#_ := by
  obtain ⟨h, -⟩ := eq_zero_of_append_eq_zero h
  obtain ⟨h, b6⟩ := eq_zero_of_append_eq_zero h
  obtain ⟨h, b2⟩ := eq_zero_of_append_eq_zero h
  obtain ⟨h, b5⟩ := eq_zero_of_append_eq_zero h
  obtain ⟨b12, b34⟩ := eq_zero_of_append_eq_zero h
  have low : c.extractLsb' 2 5 = 0#5 := by
    refine BitVec.eq_of_getLsbD_eq fun k hk => ?_
    interval_cases k
    · simpa using congrArg (BitVec.getLsbD · 0) b2
    · simpa using congrArg (BitVec.getLsbD · 0) b34
    · simpa using congrArg (BitVec.getLsbD · 1) b34
    · simpa using congrArg (BitVec.getLsbD · 0) b5
    · simpa using congrArg (BitVec.getLsbD · 0) b6
  rw [b12, low]; rfl

theorem decodeQuadrant1_wf {c : Half} {i : Instr} (h : decodeQuadrant1 c = .ok i) : i.wf = true := by
  unfold decodeQuadrant1 at h
  dsimp only at h
  split at h
  · split at h
    · cases h; rfl
    · rename_i hrd; cases h; simpa [Instr.wf] using hrd
  · cases h; exact isEven_append_zero _
  · cases h; rfl
  · split at h
    · cases h
    · rename_i himm
      split at h <;> cases h
      · exact Bool.and_eq_true_iff.2 ⟨beq_iff_eq.2 BitVec.extractLsb'_append_eq_right,
          bne_iff_ne.2 fun h0 => himm (addi16spImm_eq_zero h0)⟩
      · rename_i hrd; simp [Instr.wf, hrd, himm]
  · exact decodeCArith_wf h
  · cases h; exact isEven_append_zero _
  · cases h; exact isEven_append_zero _
  · cases h; exact isEven_append_zero _

theorem decodeQuadrant2_wf {c : Half} {i : Instr} (h : decodeQuadrant2 c = .ok i) : i.wf = true := by
  unfold decodeQuadrant2 at h
  dsimp only at h
  split at h
  · split at h <;> cases h; rfl
  · split at h
    · cases h
    · rename_i hrd
      cases h
      exact Bool.and_eq_true_iff.2 ⟨beq_iff_eq.2 BitVec.extractLsb'_append_eq_right, bne_iff_ne.2 hrd⟩
  · repeat' split at h
    all_goals cases h <;> simp_all [Instr.wf]
  · cases h; exact beq_iff_eq.2 BitVec.extractLsb'_append_eq_right
  · cases h

theorem decode16_wf {c : Half} {i : Instr} (h : decode16 c = .ok i) : i.wf = true := by
  unfold decode16 at h
  split at h
  · exact decodeQuadrant0_wf h
  · exact decodeQuadrant1_wf h
  · exact decodeQuadrant2_wf h
  · cases h

/-- What decodes is well-formed (30_encoding.md R193). -/
theorem decode_wf {raw : Word} {i : Instr} (h : decode raw = .ok i) : i.wf = true := by
  unfold decode at h
  split at h
  · exact decode32_wf h
  · exact decode16_wf h

end Sys2Proof
end

section
/-! The bus calls and translations that an instruction makes, as one relation: what every translation and every bus call
keeps, every fetch, load, store and AMO keeps. -/

namespace Sys2Proof.Machine

/-- The states that translations and bus calls lead to from s (20_memory.md R107 to R111). -/
inductive Accesses (s : State) : State → Prop where
  | none : Accesses s s
  | translation {t u : State} (va : Word) (kind : Access) :
      Accesses s t → Leaves (translate va kind t) u → Accesses s u
  | busCall {t : State} (op : BusOp) (pa : PAddr) (n : Nat) : Accesses s t → Accesses s (busAfter t op pa n)

/-- What every translation and every bus call keeps, a sequence of them keeps. -/
theorem Accesses.keeps {P : State → Prop} (hT : ∀ va kind s, P s → (translate va kind s).After P)
    (hB : ∀ op pa n s, P s → P (busAfter s op pa n)) {s t : State} (h : Accesses s t) (hs : P s) : P t := by
  induction h with
  | none => exact hs
  | translation va kind _ hu ih =>
    have := hT va kind _ ih
    rcases hu with ⟨pa, hu⟩ | ⟨e, v, hu⟩ <;> rw [hu] at this <;> exact this
  | busCall op pa n _ ih => exact hB op pa n _ ih

theorem Accesses.trans {s t u : State} (h : Accesses s t) (h' : Accesses t u) : Accesses s u := by
  induction h' with
  | none => exact h
  | translation va kind _ hu ih => exact ih.translation va kind hu
  | busCall op pa n _ ih => exact ih.busCall op pa n

theorem Accesses.accessOnly {s t : State} (h : Accesses s t) : AccessOnly s t :=
  h.keeps (P := AccessOnly s) (fun va kind u hu => (translate_after va kind u).mono fun _ hv => hu.trans hv.toMem)
    (fun op pa n u hu => hu.trans (busAfter_accessOnly u op pa n)) (AccessOnly.refl s)

/-! ### Each operation is such a sequence -/

theorem translate_accesses (va : Word) (kind : Access) (s : State) : (translate va kind s).After (Accesses s) := by
  rcases translate_cases va kind s with ⟨pa, t, h, -⟩ | ⟨e, t, h, -, -⟩ <;> rw [h]
  · exact Accesses.none.translation va kind (.inl ⟨pa, h⟩)
  · exact Accesses.none.translation va kind (.inr ⟨e, va, h⟩)

theorem busRead_accesses (kind : Access) (va : Word) (pa : PAddr) (w : Width) (s : State) :
    (busRead kind va pa w s).After (Accesses s) := by
  rcases busRead_cases kind va pa w s with ⟨-, h⟩ | ⟨-, h⟩ <;> rw [h] <;> exact Accesses.none.busCall _ _ _

theorem busWrite_accesses (va : Word) (pa : PAddr) (w : Width) (v : Word) (s : State) :
    (busWrite va pa w v s).After (Accesses s) := by
  rcases busWrite_cases va pa w v s with ⟨-, h⟩ | ⟨-, h⟩ <;> rw [h] <;> exact Accesses.none.busCall _ _ _

/-- Of two operations in sequence each of which makes accesses. -/
theorem Res.After.bindAccesses {α β : Type} {s : State} {m : Res α} {f : α → State → Res β} (h : m.After (Accesses s))
    (hf : ∀ a t, (f a t).After (Accesses t)) : (m.bind f).After (Accesses s) :=
  h.bind (fun _ ht => ht) fun a t ht => (hf a t).mono fun _ hu => ht.trans hu

theorem readPart_accesses (a : Word) (w : Width) (kind : Access) (s : State) :
    (readPart a w kind s).After (Accesses s) :=
  (translate_accesses a kind s).bindAccesses fun pa t => busRead_accesses kind a pa w t

theorem writePart_accesses (a : Word) (w : Width) (v : Word) (s : State) : (writePart a w v s).After (Accesses s) :=
  (translate_accesses a .W s).bindAccesses fun pa t => busWrite_accesses a pa w v t

theorem memRead_accesses (a : Word) (w : Width) (kind : Access) (s : State) :
    (memRead a w kind s).After (Accesses s) := by
  unfold memRead
  split
  · exact readPart_accesses a w kind s
  · exact (readPart_accesses a _ kind s).bindAccesses fun _ t =>
      (readPart_accesses _ _ kind t).bindAccesses fun _ _ => Accesses.none
  · trivial

theorem memWrite_accesses (a : Word) (w : Width) (v : Word) (s : State) : (memWrite a w v s).After (Accesses s) := by
  unfold memWrite
  split
  · exact writePart_accesses a w v s
  · exact (writePart_accesses a _ v s).bindAccesses fun _ t => writePart_accesses _ _ _ t
  · trivial

theorem fetch_accesses (s : State) : (fetch s).After (Accesses s) := by
  unfold fetch
  split
  · refine (memRead_accesses s.pc .half .X s).bindAccesses fun lo t => ?_
    split
    · exact (memRead_accesses _ .half .X t).bindAccesses fun _ _ => Accesses.none
    · exact Accesses.none
  · refine (memRead_accesses s.pc .word .X s).bindAccesses fun w t => ?_
    split <;> exact Accesses.none

/-- A fetch brings 2 or 4 bytes (40_step.md R231). -/
theorem fetch_len {s u : State} {f : Fetched} (h : fetch s = .ok f u) : f.len = 2#32 ∨ f.len = 4#32 := by
  unfold fetch at h
  split at h
  · obtain ⟨lo, t, -, h⟩ := Res.bind_eq_ok.1 h
    split at h
    · obtain ⟨hi, t, -, h⟩ := Res.bind_eq_ok.1 h
      cases h; exact .inr rfl
    · cases h; exact .inl rfl
  · obtain ⟨w, t, -, h⟩ := Res.bind_eq_ok.1 h
    split at h <;> cases h
    · exact .inr rfl
    · exact .inl rfl

end Sys2Proof.Machine
end

section
/-! What each of the 97 instructions can do, said once: one relation with a constructor for each kind of effect. -/

namespace Sys2Proof.Machine

/-- The values `next_pc` can have after an instruction that is no return from a trap: as the step set it, pc plus an
offset of the encoding, or the target of an indirect jump (42_branches_jumps.md R280, R287, R288). -/
inductive NextPc (i : Instr) (s : State) : Word → Prop where
  | asSet : NextPc i s s.nextPc
  | relative {n : Nat} (off : BitVec n) : (i.wf = true → isEven off = true) → NextPc i s (s.pc + sext off)
  | indirect (base disp : Word) : NextPc i s (indirectTarget base disp)

/-- What an instruction that answers a next state did (40_step.md R236). -/
inductive Effect (i : Instr) (s : State) : State → Prop where
  /-- it took an exception, after accesses; SC.W has changed the reservation before (45_atomics.md R353) -/
  | raises {u : State} (r : Option Word) (e : Exc) (v : Word) :
      Accesses { s with resv := r } u → Effect i s (takeException e v u)
  /-- accesses, then `next_pc`, the reservation and the destination register -/
  | completes {u : State} {n : Word} (r r' : Option Word) (v : Word) : Accesses { s with resv := r } u →
      NextPc i s n → Effect i s (State.setReg { u with nextPc := n, resv := r' } (destOf i) v)
  | csrWrites (num : CsrNum) (v old : Word) : isCsrInstr i = true → csrCheck num true s = true →
      Effect i s ((csrWrite num v s).setReg (destOf i) old)
  | flushes {rs1 rs2 : Reg} : i = .sfenceVma rs1 rs2 → s.priv ≠ .U → Effect i s (tlbFlushAll s)
  | returnsFromM : i = .mret → s.priv = .M → Effect i s (returnFromM s)
  | returnsFromS : i = .sret → s.priv ≠ .U → Effect i s (returnFromS s)
  | waits : i = .wfi → Effect i s (wfiTail s)

/-! ### One lemma per shared operation -/

variable {i : Instr} {s t : State}

theorem Effect.exception (e : Exc) (v : Word) : Effect i s (takeException e v s) :=
  .raises s.resv e v .none

/-- An instruction that only writes its destination register. -/
theorem Effect.of_setReg {v : Word}
    (h : Host.Outcome.next (φ := Fault) (ρ := Refusal) (s.setReg (destOf i) v) = .next t) :
    Effect i s t := by
  cases h; exact .completes s.resv s.resv v .none .asSet

/-- An instruction that writes no register and sets `next_pc`. -/
theorem Effect.of_setNextPc {n : Word} (hd : destOf i = 0#5) (hn : NextPc i s n) : Effect i s (s.setNextPc n) := by
  have := Effect.completes s.resv s.resv 0#32 .none hn
  rwa [hd, State.setReg_zero] at this

/-- An instruction that does nothing. -/
theorem Effect.of_same (hd : destOf i = 0#5) (h : Host.Outcome.next (φ := Fault) (ρ := Refusal) s = .next t) :
    Effect i s t := by
  cases h; exact .of_setNextPc hd .asSet

theorem Effect.of_exception {e : Exc} {v : Word}
    (h : Host.Outcome.next (φ := Fault) (ρ := Refusal) (takeException e v s) = .next t) : Effect i s t := by
  cases h; exact .exception e v

theorem Effect.of_branchIf {taken : Bool} {n : Nat} {off : BitVec n} (hd : destOf i = 0#5)
    (ho : i.wf = true → isEven off = true) (h : branchIf taken (sext off) s = .next t) : Effect i s t := by
  unfold branchIf at h
  cases h
  split
  · exact .of_setNextPc hd (.relative off ho)
  · exact .of_setNextPc hd .asSet

theorem Effect.of_jump {target : Word} (hn : NextPc i s target) (h : jump (destOf i) target s = .next t) :
    Effect i s t := by
  cases h; exact .completes s.resv s.resv s.nextPc .none hn

/-- An instruction that makes accesses and then writes the reservation and its destination register. -/
theorem Effect.of_accesses {u : State} {r : Option Word} (r' : Option Word) (v : Word)
    (h : Accesses { s with resv := r } u) : Effect i s (State.setReg { u with resv := r' } (destOf i) v) := by
  obtain ⟨-, -, hn, -⟩ := AccessOnly.fields h.accessOnly
  have hn : NextPc i s u.nextPc := hn ▸ .asSet
  exact .completes r r' v h hn

/-- An instruction that makes accesses and writes no register. -/
theorem Effect.of_accesses_only {u : State} {r : Option Word} (hd : destOf i = 0#5)
    (h : Accesses { s with resv := r } u) : Effect i s u := by
  have := Effect.of_accesses (i := i) u.resv 0#32 h
  rwa [hd, State.setReg_zero] at this

/-- The operations of an instruction, with the reservation r while they run, end in an effect of it or raise after
accesses. -/
def Res.Does (i : Instr) (s : State) (r : Option Word) : Res Unit → Prop
  | .ok _ t => Effect i s t
  | .raise _ _ u => Accesses { s with resv := r } u
  | .refuse _ => True

theorem Effect.of_finish {m : Res Unit} {r : Option Word} (hm : m.Does i s r) (h : finish m = .next t) :
    Effect i s t := by
  rcases finish_eq_next.1 h with rfl | ⟨e, v, u, rfl, rfl⟩
  · exact hm
  · exact .raises r e v hm

theorem Res.After.does {α : Type} {m : Res α} {f : α → State → Res Unit} {r : Option Word}
    (hm : m.After (Accesses { s with resv := r }))
    (hf : ∀ a u, Accesses { s with resv := r } u → (f a u).Does i s r) : (m.bind f).Does i s r := by
  cases m with
  | ok a u => exact hf a u hm
  | raise e v u => exact hm
  | refuse _ => trivial

theorem Effect.of_load {w : Width} {extend : Word → Word} {ea : Word} (h : load w extend (destOf i) ea s = .next t) :
    Effect i s t := by
  refine .of_finish (r := s.resv) ((memRead_accesses ea w .R s).does fun v u hu => ?_) h
  exact Effect.of_accesses u.resv (extend v) hu

theorem Effect.of_store {w : Width} {v ea : Word} (hd : destOf i = 0#5) (h : store w v ea s = .next t) :
    Effect i s t := by
  have hm := memWrite_accesses ea w v s
  rcases finish_eq_next.1 h with hw | ⟨e, a, u, hw, rfl⟩ <;> rw [hw] at hm
  · exact .of_accesses_only hd hm
  · exact .raises s.resv e a hm

theorem Effect.of_loadReserved {ea : Word} (h : loadReserved (destOf i) ea s = .next t) : Effect i s t := by
  unfold loadReserved at h
  split at h
  · refine .of_finish (r := s.resv) ((memRead_accesses ea .word .R s).does fun v u hu => ?_) h
    exact Effect.of_accesses (some ea) v hu
  · exact .of_exception h

theorem Effect.of_storeConditional {v ea : Word} (h : storeConditional (destOf i) v ea s = .next t) :
    Effect i s t := by
  unfold storeConditional at h
  split at h
  · split at h
    · refine .of_finish (r := none) ((memWrite_accesses ea .word v _).does fun _ u hu => ?_) h
      exact Effect.of_accesses u.resv 0#32 hu
    · cases h; exact .of_accesses (r := s.resv) none 1#32 .none
  · exact .of_exception h

theorem Effect.of_amo {f : Word → Word → Word} {src ea : Word} (h : amo f (destOf i) src ea s = .next t) :
    Effect i s t := by
  unfold amo at h
  split at h
  · refine .of_finish (r := s.resv) ((translate_accesses ea .W s).does fun pa u hu => ?_) h
    refine Res.After.does ((busRead_accesses .W ea pa .word u).mono fun _ => hu.trans) fun old u' hu' => ?_
    exact Res.After.does ((busWrite_accesses ea pa .word _ u').mono fun _ => hu'.trans) fun _ u'' hu'' =>
      Effect.of_accesses u''.resv old hu''
  · exact .of_exception h

theorem Effect.of_csrOp {n : CsrNum} {doWrite : Bool} {new : Word → Word} (hi : isCsrInstr i = true)
    (h : csrOp n doWrite new (destOf i) s = .next t) : Effect i s t := by
  rcases csrOp_next h with ⟨-, hw, rfl⟩ | ⟨-, rfl⟩
  · split
    · rename_i hd; exact .csrWrites n _ _ hi (hw hd)
    · exact .of_accesses (r := s.resv) s.resv _ .none
  · exact .exception _ _

theorem Effect.of_execMret (hi : i = .mret) (h : execMret s = .next t) : Effect i s t := by
  unfold execMret at h
  split at h
  · rename_i hp; cases h; exact .returnsFromM hi hp
  · exact .of_exception h

theorem Effect.of_execSret (hi : i = .sret) (h : execSret s = .next t) : Effect i s t := by
  unfold execSret at h
  split at h
  · exact .of_exception h
  · rename_i hp; cases h; exact .returnsFromS hi hp

theorem Effect.of_execSfenceVma {rs1 rs2 : Reg} (hi : i = .sfenceVma rs1 rs2)
    (h : execSfenceVma rs1 rs2 s = .next t) : Effect i s t := by
  unfold execSfenceVma at h
  split at h
  · exact .of_exception h
  · rename_i hp
    split at h
    · exact .of_exception h
    · cases h; exact .flushes hi hp

/-- Every instruction has one of the effects, and that is all it does. -/
theorem exec_effect (h : exec i s = .next t) : Effect i s t := by
  cases i with
  | lui | auipc => exact .of_setReg h
  | addi | slti | sltiu | xori | ori | andi | slli | srli | srai => exact .of_setReg h
  | add | sub | sll | slt | sltu | xor | srl | sra | or | and => exact .of_setReg h
  | mul | mulh | mulhsu | mulhu | div | divu | rem | remu => exact .of_setReg h
  | cAddi4spn | cAddi | cLi | cAddi16sp | cLui | cMv | cAdd => exact .of_setReg h
  | cSrli | cSrai | cAndi | cSub | cXor | cOr | cAnd | cSlli => exact .of_setReg h
  | fence | fenceI | cNop => exact .of_same rfl h
  | beq | bne | blt | bge | bltu | bgeu | cBeqz | cBnez => exact .of_branchIf rfl id h
  | jal rd off => exact .of_jump (.relative off id) h
  | jalr | cJr | cJalr => exact .of_jump (.indirect _ _) h
  | cJal off => exact .of_jump (.relative off id) h
  | cJ off => exact .of_jump (.relative off id) h
  | lb | lh | lw | lbu | lhu | cLw | cLwsp => exact .of_load h
  | sb | sh | sw | cSw | cSwsp => exact .of_store rfl h
  | lrW => exact .of_loadReserved h
  | scW => exact .of_storeConditional h
  | amoSwapW => exact .of_amo (f := fun _ src => src) h
  | amoAddW => exact .of_amo (f := fun old src => old + src) h
  | amoXorW => exact .of_amo (f := fun old src => old ^^^ src) h
  | amoAndW => exact .of_amo (f := fun old src => old &&& src) h
  | amoOrW => exact .of_amo (f := fun old src => old ||| src) h
  | amoMinW | amoMaxW | amoMinuW | amoMaxuW => exact .of_amo h
  | ecall | ebreak | cEbreak => exact .of_exception h
  | csrrw | csrrs | csrrc | csrrwi | csrrsi | csrrci => exact .of_csrOp rfl h
  | mret => exact .of_execMret rfl h
  | sret => exact .of_execSret rfl h
  | sfenceVma => exact .of_execSfenceVma rfl h
  | wfi => cases h; exact .waits rfl

end Sys2Proof.Machine
end

section
/-! The CSR file as a map from storage words, what a read and a write through a row do, and the facts about the 30 rows
that hold of the table as a whole (10_state.md R32 to R61). -/

namespace Sys2Proof.Machine

/-! ### Bits outside a mask -/

/-- A word has no bit outside a mask. -/
theorem outside_eq_zero_iff (w m : Word) :
    w &&& ~~~m = 0#32 ↔ ∀ k, w.getLsbD k = true → m.getLsbD k = true := by
  constructor
  · intro h k hk
    have hlt : k < 32 := BitVec.lt_of_getLsbD hk
    have := congrArg (BitVec.getLsbD · k) h
    simpa [-BitVec.getLsbD_eq_getElem, BitVec.getLsbD_and, BitVec.getLsbD_not, hk, hlt] using this
  · intro h
    refine BitVec.eq_of_getLsbD_eq fun k hk => ?_
    rw [BitVec.getLsbD_and, BitVec.getLsbD_not, BitVec.getLsbD_zero]
    cases hw : w.getLsbD k
    · rfl
    · simp [h k hw]

theorem maskedWrite_getLsbD (old m v : Word) (k : Nat) :
    (maskedWrite old m v).getLsbD k = if m.getLsbD k then v.getLsbD k else old.getLsbD k := by
  unfold maskedWrite
  rw [BitVec.getLsbD_or, BitVec.getLsbD_and, BitVec.getLsbD_and, BitVec.getLsbD_not]
  by_cases hk : k < 32
  · cases m.getLsbD k <;> simp [hk]
  · simp [BitVec.getLsbD_of_ge _ k (Nat.le_of_not_lt hk)]

/-- A write whose mask lies in m leaves no bit outside m where there was none. -/
theorem maskedWrite_outside {old wmask m : Word} (v : Word) (ho : old &&& ~~~m = 0#32) (hm : wmask &&& ~~~m = 0#32) :
    maskedWrite old wmask v &&& ~~~m = 0#32 := by
  rw [outside_eq_zero_iff] at *
  intro k hk
  rw [maskedWrite_getLsbD] at hk
  split at hk
  · rename_i h; exact hm k h
  · exact ho k hk

/-- A bit written inside m leaves no bit outside m where there was none. -/
theorem putBit_outside {w m : Word} {j : Nat} (b : Bool) (hj : m.getLsbD j = true) (hw : w &&& ~~~m = 0#32) :
    putBit w j b &&& ~~~m = 0#32 := by
  rw [outside_eq_zero_iff] at *
  intro k hk
  rw [putBit_getLsbD _ _ _ (BitVec.lt_of_getLsbD hj)] at hk
  split at hk
  · rename_i h; exact h ▸ hj
  · exact hw k hk

/-! ### `mstatus.MPP` -/

theorem statusMPP_putMPP (w : Word) (p : BitVec 2) : statusMPP (putMPP w p) = p := by
  rw [statusMPP_eq_iff, putMPP_getLsbD, putMPP_getLsbD]
  simp

theorem statusMPP_putBit {w : Word} {k : Nat} (b : Bool) (hk : k < 32) (h11 : k ≠ 11) (h12 : k ≠ 12) :
    statusMPP (putBit w k b) = statusMPP w := by
  rw [statusMPP_eq_iff, putBit_getLsbD _ _ _ hk, putBit_getLsbD _ _ _ hk, if_neg h11.symm, if_neg h12.symm]
  exact (statusMPP_eq_iff w _).1 rfl

@[simp] theorem statusMPP_putSIE (w : Word) (b : Bool) : statusMPP (putSIE w b) = statusMPP w :=
  statusMPP_putBit b (by decide) (by decide) (by decide)
@[simp] theorem statusMPP_putMIE (w : Word) (b : Bool) : statusMPP (putMIE w b) = statusMPP w :=
  statusMPP_putBit b (by decide) (by decide) (by decide)
@[simp] theorem statusMPP_putSPIE (w : Word) (b : Bool) : statusMPP (putSPIE w b) = statusMPP w :=
  statusMPP_putBit b (by decide) (by decide) (by decide)
@[simp] theorem statusMPP_putMPIE (w : Word) (b : Bool) : statusMPP (putMPIE w b) = statusMPP w :=
  statusMPP_putBit b (by decide) (by decide) (by decide)
@[simp] theorem statusMPP_putSPP (w : Word) (b : Bool) : statusMPP (putSPP w b) = statusMPP w :=
  statusMPP_putBit b (by decide) (by decide) (by decide)
@[simp] theorem statusMPP_putMPRV (w : Word) (b : Bool) : statusMPP (putMPRV w b) = statusMPP w :=
  statusMPP_putBit b (by decide) (by decide) (by decide)

/-- Writing back the MPP that is there changes nothing. -/
theorem putMPP_self {w : Word} {p : BitVec 2} (h : statusMPP w = p) : putMPP w p = w := by
  obtain ⟨h11, h12⟩ := (statusMPP_eq_iff w p).1 h
  refine BitVec.eq_of_getLsbD_eq fun k _ => ?_
  rw [putMPP_getLsbD]
  split
  · rename_i hk; rw [hk, h12]
  · split
    · rename_i hk; rw [hk, h11]
    · rfl

/-- MPP after a write is legal where it was before (R61). -/
theorem legalMstatus_legal {old : Word} (new : Word) (h : statusMPP old ≠ 2#2) :
    statusMPP (legalMstatus old new) ≠ 2#2 := by
  unfold legalMstatus
  split
  · rwa [statusMPP_putMPP]
  · assumption

/-! ### Storage words -/

/-- A storage word after a write to one; the constant 0 has no storage. -/
theorem Csrs.get_put (c : Csrs) (slot q : CsrSlot) (v : Word) :
    (c.put slot v).get q = if q = slot ∧ q ≠ .zero then v else c.get q := by
  cases slot <;> cases q <;> rfl

theorem Csrs.get_put_other {c : Csrs} {slot q : CsrSlot} (v : Word) (h : q ≠ slot) :
    (c.put slot v).get q = c.get q := by
  rw [Csrs.get_put, if_neg fun hq => h hq.1]

theorem Csrs.get_put_same {c : Csrs} {slot : CsrSlot} (v : Word) (h : slot ≠ .zero) :
    (c.put slot v).get slot = v := by
  rw [Csrs.get_put, if_pos ⟨rfl, h⟩]

/-! ### Rows -/

/-- The row of a number is a row of the table, and the number's own. -/
theorem csrRow_mem {n : CsrNum} {r : CsrRow} (h : csrRow n = some r) : r ∈ csrMap ∧ r.num = n :=
  ⟨List.mem_of_find?_eq_some h, by simpa using List.find?_some h⟩

theorem csrRead_row {n : CsrNum} {r : CsrRow} (h : csrRow n = some r) (s : State) :
    csrRead n s = s.csr.get r.slot &&& r.rmask := by
  unfold csrRead; rw [h]

/-- What a write through a row does to the CSR words (R36, R61). -/
theorem csrWrite_csr {n : CsrNum} {r : CsrRow} (h : csrRow n = some r) (v : Word) (s : State) :
    (csrWrite n v s).csr = s.csr.put r.slot (csrStored r (s.csr.get r.slot) v) := by
  unfold csrWrite; rw [h]
  dsimp only
  split <;> rfl

/-- A number without a row is not written. -/
theorem csrWrite_unmapped {n : CsrNum} (h : csrRow n = none) (v : Word) (s : State) : csrWrite n v s = s := by
  unfold csrWrite; rw [h]

/-- Only a `satp` write touches the TLB (R37). -/
theorem csrWrite_not_satp {n : CsrNum} (hn : n ≠ satpNum) (v : Word) (s : State) :
    csrWrite n v s = { s with csr := (csrWrite n v s).csr } := by
  unfold csrWrite
  split
  · dsimp only; rw [if_neg hn]
  · rfl

/-- Under a mask of all ones the value is written as it is. -/
theorem maskedWrite_all (old v : Word) : maskedWrite old 0xFFFFFFFF#32 v = v := by
  refine BitVec.eq_of_getLsbD_eq fun k hk => ?_
  have ones : (0xFFFFFFFF#32 : Word).getLsbD k = true := by
    rw [show (0xFFFFFFFF#32 : Word) = BitVec.allOnes 32 by decide, BitVec.getLsbD_allOnes]
    exact decide_eq_true hk
  rw [maskedWrite_getLsbD, if_pos ones]

/-- Under an empty mask nothing is written. -/
theorem maskedWrite_none (old v : Word) : maskedWrite old 0#32 v = old := by
  refine BitVec.eq_of_getLsbD_eq fun k _ => ?_
  rw [maskedWrite_getLsbD, BitVec.getLsbD_zero]; rfl

/-- A `satp` write (R37). -/
theorem csrWrite_satp (v : Word) (s : State) :
    csrWrite satpNum v s = satpSideEffect { s with csr := { s.csr with satp := v } } := by
  have hr : csrRow satpNum = some ⟨satpNum, .satp, 0xFFFFFFFF#32, 0xFFFFFFFF#32⟩ := rfl
  unfold csrWrite
  rw [hr]
  simp only [csrStored, maskedWrite_all, if_true]
  rfl

/-- `satp` is the storage of one number only. -/
theorem csrMap_satp : ∀ r ∈ csrMap, r.slot = .satp → r.num = satpNum := by decide

/-- The rows of the constant 0 write nothing. -/
theorem csrMap_zero : ∀ r ∈ csrMap, r.slot = .zero → r.wmask = 0#32 := by decide

theorem csrStored_other {r : CsrRow} (h : r.slot ≠ .mstatus) (old v : Word) :
    csrStored r old v = maskedWrite old r.wmask v := by
  unfold csrStored; split
  · contradiction
  · rfl

theorem csrStored_mstatus {r : CsrRow} (h : r.slot = .mstatus) (old v : Word) :
    csrStored r old v = legalMstatus old (maskedWrite old r.wmask v) := by
  unfold csrStored; rw [h]

/-- A write that names a legal MPP, or is to another word, stores the masked value. -/
theorem csrStored_masked {r : CsrRow} {old v : Word}
    (h : r.slot ≠ .mstatus ∨ statusMPP (maskedWrite old r.wmask v) ≠ 2#2) :
    csrStored r old v = maskedWrite old r.wmask v := by
  by_cases hm : r.slot = .mstatus
  · rw [csrStored_mstatus hm, legalMstatus, if_neg (h.resolve_left (not_not_intro hm))]
  · exact csrStored_other hm old v

/-- The storage word after a write through its row; the constant 0 stays 0, as its rows write nothing. -/
theorem csrWrite_get {n : CsrNum} {r : CsrRow} (h : csrRow n = some r) (v : Word) (s : State) :
    (csrWrite n v s).csr.get r.slot = csrStored r (s.csr.get r.slot) v := by
  rw [csrWrite_csr h]
  by_cases hz : r.slot = .zero
  · rw [csrStored_other (by rw [hz]; decide), csrMap_zero r (csrRow_mem h).1 hz, hz]
    simp [Csrs.get, maskedWrite]
  · exact Csrs.get_put_same _ hz

/-! ### What a CSR write leaves alone (R36, R37) -/

@[simp] theorem csrWrite_x (n : CsrNum) (v : Word) (s : State) : (csrWrite n v s).x = s.x := by
  rw [csrWrite_only]

@[simp] theorem csrWrite_pc (n : CsrNum) (v : Word) (s : State) : (csrWrite n v s).pc = s.pc := by
  rw [csrWrite_only]

@[simp] theorem csrWrite_nextPc (n : CsrNum) (v : Word) (s : State) : (csrWrite n v s).nextPc = s.nextPc := by
  rw [csrWrite_only]

@[simp] theorem csrWrite_priv (n : CsrNum) (v : Word) (s : State) : (csrWrite n v s).priv = s.priv := by
  rw [csrWrite_only]

@[simp] theorem csrWrite_resv (n : CsrNum) (v : Word) (s : State) : (csrWrite n v s).resv = s.resv := by
  rw [csrWrite_only]

@[simp] theorem csrWrite_mem (n : CsrNum) (v : Word) (s : State) : (csrWrite n v s).mem = s.mem := by
  rw [csrWrite_only]

@[simp] theorem csrWrite_bus (n : CsrNum) (v : Word) (s : State) : (csrWrite n v s).bus = s.bus := by
  rw [csrWrite_only]

@[simp] theorem csrWrite_busCalls (n : CsrNum) (v : Word) (s : State) : (csrWrite n v s).busCalls = s.busCalls := by
  rw [csrWrite_only]

@[simp] theorem csrWrite_result (n : CsrNum) (v : Word) (s : State) : (csrWrite n v s).result = s.result := by
  rw [csrWrite_only]

@[simp] theorem csrWrite_rawInst (n : CsrNum) (v : Word) (s : State) : (csrWrite n v s).rawInst = s.rawInst := by
  rw [csrWrite_only]

/-! ### The gate -/

theorem csrRow_isSome_iff (n : CsrNum) : (csrRow n).isSome = true ↔ n ∈ csrMap.map CsrRow.num := by
  simp [csrRow, List.find?_isSome]

/-- The minimum privilege of a number, as an order of the 2-bit encodings; 2 needs M (R33). -/
theorem below_csrMinPriv_iff (p : Priv) (n : CsrNum) :
    p.below (csrMinPriv n) = true ↔ p.bits < n.extractLsb' 8 2 := by
  have table : ∀ (p : Priv) (b : BitVec 2), p.below (Priv.ofBits b) = true ↔ p.bits < b := by
    intro p; cases p <;> decide
  exact table p _

/-- In U-mode no write passes the gate: every row that U-mode reaches is read-only. -/
theorem csrCheck_write_priv {n : CsrNum} {s : State} (h : csrCheck n true s = true) : s.priv ≠ .U := by
  intro hU
  have rows : ∀ r ∈ csrMap, Priv.U.below (csrMinPriv r.num) = true ∨ csrReadOnly r.num = true := by decide
  obtain ⟨r, hr⟩ : ∃ r, csrRow n = some r := Option.isSome_iff_exists.1 (by simp [csrCheck] at h; exact h.1.1)
  obtain ⟨hmem, rfl⟩ := csrRow_mem hr
  rcases rows r hmem with hb | hb <;> simp [csrCheck, hU, hb] at h

/-! ### Invalidation in a set-associative table -/

/-- An invalidation of a table reaches every way of every set. -/
theorem dropSets_getElem {sets ways : Nat} (p : TlbEntry → Bool) (t : SetTlb sets ways) (i : Fin sets) (j : Fin ways) :
    (t.map (dropWays p))[i][j] = if p t[i][j] then { t[i][j] with valid := false } else t[i][j] := by
  rw [← dropWays_getElem]
  simp

end Sys2Proof.Machine
end

section
/-! The statements about the CSR file. -/

namespace Sys2Proof.Machine

/-- Settles O31: the gate is four conditions, and the mapped numbers are those of the table. -/
theorem csrGate : Obligations.CsrGate := by
  intro n isWrite s
  have mapped : csrMap.map CsrRow.num = [0x100#12, 0x104#12, 0x105#12, 0x106#12, 0x140#12, 0x141#12, 0x142#12,
      0x143#12, 0x144#12, 0x180#12, 0x300#12, 0x301#12, 0x302#12, 0x303#12, 0x304#12, 0x305#12, 0x306#12, 0x340#12, 0x341#12,
      0x342#12, 0x343#12, 0x344#12, 0xB00#12, 0xB80#12, 0xC00#12, 0xC80#12, 0xF11#12, 0xF12#12, 0xF13#12, 0xF14#12] := rfl
  rw [← mapped, ← csrRow_isSome_iff, ← below_csrMinPriv_iff]
  unfold csrCheck csrReadOnly satpNum
  simp only [Bool.and_eq_false_iff, Bool.not_eq_eq_eq_not, Bool.not_false, Bool.and_eq_true, beq_iff_eq, or_assoc,
    Bool.not_eq_true, Bool.not_true, and_assoc]

/-- Settles O34: a write through a row is a masked write of its storage word, with MPP kept legal. -/
theorem csrReadAndWriteMasks : Obligations.CsrReadAndWriteMasks := by
  intro n r v s h
  dsimp only
  refine ⟨csrRead_row h s, fun hl => ?_, fun hm h2 => ?_, fun q hq => ?_, ?_⟩
  · rw [csrWrite_get h, csrStored_masked hl]; rfl
  · have hg := csrWrite_get h v s
    rw [csrStored_mstatus hm, hm] at hg
    have hg : (csrWrite n v s).csr.mstatus
        = putMPP (maskedWrite s.csr.mstatus r.wmask v) (statusMPP s.csr.mstatus) := by
      rw [hm] at h2
      exact hg.trans (if_pos h2)
    rw [hg]
    refine ⟨statusMPP_putMPP _ _, fun k h11 h12 => ?_⟩
    rw [putMPP_getLsbD, if_neg h12, if_neg h11, hm]; rfl
  · rw [csrWrite_csr h, Csrs.get_put_other _ hq]
  · simp only [csrWrite_pc, csrWrite_nextPc, csrWrite_priv, csrWrite_resv, csrWrite_bus, csrWrite_busCalls,
      csrWrite_result, csrWrite_rawInst, true_and]
    refine ⟨State.reg_congr (csrWrite_x n v s), fun a => by rw [csrWrite_mem], fun hn => ?_⟩
    rw [csrWrite_not_satp hn]
    exact ⟨⟨rfl, rfl, rfl⟩, rfl⟩

/-- Settles O36: the side effect of a `satp` write clears `valid` where `global` is not set. -/
theorem satpWriteFlushesNonGlobal : Obligations.SatpWriteFlushesNonGlobal := by
  intro v s
  have keep : ∀ e : TlbEntry, (if !e.global then { e with valid := false } else e)
      = { e with valid := e.valid && e.global } := by
    rintro ⟨vpn, ppn, pte, valid, global, level, asid, lru⟩
    cases global <;> simp
  dsimp only
  rw [show (0x180#12 : CsrNum) = satpNum from rfl, csrWrite_satp]
  refine ⟨rfl, rfl, fun i j => ?_, fun i j => ?_, fun j => ?_⟩
  · exact (dropSets_getElem (fun e => !e.global) s.itlb i j).trans (keep _)
  · exact (dropSets_getElem (fun e => !e.global) s.dtlb i j).trans (keep _)
  · exact (dropWays_getElem (fun e => !e.global) s.stlb j).trans (keep _)

/-- Settles O13: the reset value of every row of the CSR table is read off the table. -/
theorem resetState : Obligations.ResetState := by
  have rows : ∀ row ∈ csrMap, Csrs.reset.get row.slot &&& row.rmask
      = if row.num = 0x301#12 then 0x40141105#32 else 0#32 := by decide
  have core : ∀ r : State, (∃ m b n, r = { State.reset with mem := m, bus := b, busCalls := n }) →
      ∀ n row, csrRow n = some row → csrRead n r = if n = 0x301#12 then 0x40141105#32 else 0#32 := by
    rintro r ⟨m, b, k, rfl⟩ n row h
    obtain ⟨hmem, rfl⟩ := csrRow_mem h
    exact (csrRead_row h _).trans (rows row hmem)
  refine ⟨fun r h => ?_, fun s => ⟨fun a => rfl, rfl, rfl⟩⟩
  have h : ∃ m b n, r = { State.reset with mem := m, bus := b, busCalls := n } := by
    rcases h with rfl | ⟨s, rfl⟩
    · exact ⟨[], Config.bus, 0, rfl⟩
    · exact ⟨s.mem, s.bus, s.busCalls, rfl⟩
  have hrow := core r h
  obtain ⟨m, b, k, rfl⟩ := h
  refine ⟨rfl, rfl, hrow, ?_, rfl, rfl, ?_, ?_, ?_, rfl, ?_⟩
  · show (0#32 ++ 0#32 : BitVec 64) = 0#64
    decide
  · simp [State.reset, TlbEntry.reset]
  · simp [State.reset, TlbEntry.reset]
  · simp [State.reset, TlbEntry.reset]
  · intro q hq
    simp [State.reset, State.reg, hq]

/-- MPP after a masked write is the new one where the mask holds both its bits, else the old one. -/
theorem statusMPP_maskedWrite {old m v : Word} (h : m.getLsbD 11 = m.getLsbD 12) :
    statusMPP (maskedWrite old m v) = if m.getLsbD 11 then statusMPP v else statusMPP old := by
  rw [statusMPP_eq_iff, maskedWrite_getLsbD, maskedWrite_getLsbD, ← h]
  split
  · exact (statusMPP_eq_iff v _).1 rfl
  · exact (statusMPP_eq_iff old _).1 rfl

/-- Reading and writing through a row whose storage is not `mstatus`. -/
theorem csrRow_readWrite {n : CsrNum} {rmask wmask : Word} (slot : CsrSlot)
    (h : csrRow n = some ⟨n, slot, rmask, wmask⟩) (hm : slot ≠ .mstatus) (v : Word) (s : State) :
    csrRead n s = s.csr.get slot &&& rmask
      ∧ (csrWrite n v s).csr.get slot = (s.csr.get slot &&& ~~~wmask) ||| (v &&& wmask) :=
  ⟨csrRead_row h s, (csrWrite_get h v s).trans (csrStored_other hm _ v)⟩

/-- `sstatus` does not reach MPP, so a write through it is the masked write (R41). -/
theorem csrWrite_sstatus (v : Word) (s : State) :
    (csrWrite 0x100#12 v s).csr.mstatus = maskedWrite s.csr.mstatus 0x000C0122#32 v := by
  have hw : (csrWrite 0x100#12 v s).csr.mstatus
      = legalMstatus s.csr.mstatus (maskedWrite s.csr.mstatus 0x000C0122#32 v) :=
    (csrWrite_get (r := ⟨0x100#12, .mstatus, 0x000C0122#32, 0x000C0122#32⟩) rfl v s).trans rfl
  rw [hw, legalMstatus]
  split
  · exact putMPP_self ((statusMPP_maskedWrite (by decide)).trans (if_neg (by decide)))
  · rfl

/-- `mstatus` takes every value whose MPP is legal (R41, R61). -/
theorem csrWrite_mstatus {v : Word} (hv : statusMPP v ≠ 2#2) (s : State) :
    (csrWrite 0x300#12 v s).csr.mstatus = maskedWrite s.csr.mstatus 0x001E19AA#32 v := by
  have hw : (csrWrite 0x300#12 v s).csr.mstatus
      = legalMstatus s.csr.mstatus (maskedWrite s.csr.mstatus 0x001E19AA#32 v) :=
    (csrWrite_get (r := ⟨0x300#12, .mstatus, 0x001E19AA#32, 0x001E19AA#32⟩) rfl v s).trans rfl
  rw [hw, legalMstatus, if_neg]
  rw [statusMPP_maskedWrite (by decide), if_pos (by decide)]
  exact hv

/-- A write to `misa` changes nothing (R43). -/
theorem csrWrite_misa (v : Word) (s : State) : csrWrite 0x301#12 v s = s := by
  have hw : (csrWrite 0x301#12 v s).csr = s.csr.put .misa (maskedWrite s.csr.misa 0#32 v) :=
    csrWrite_csr (r := ⟨0x301#12, .misa, 0xFFFFFFFF#32, 0#32⟩) rfl v s
  rw [csrWrite_not_satp (by decide), hw, maskedWrite_none]
  rfl

/-- Settles O35: each number's row, with `mstatus`, its view and `misa` apart. -/
theorem csrViews : Obligations.CsrViews := by
  intro v s
  dsimp only
  have id0 : ∀ n, csrRow n = some ⟨n, .zero, 0xFFFFFFFF#32, 0#32⟩ → csrRead n s = 0#32 := fun n h =>
    (csrRead_row h s).trans (BitVec.zero_and)
  refine ⟨⟨⟨rfl, csrWrite_sstatus v s⟩, ?_, ?_, ?_, ?_, ?_, ?_, ?_, ?_, ?_⟩,
    ⟨rfl, fun hv => csrWrite_mstatus hv s, ?_, csrWrite_misa v s, ?_, ?_, ?_, ?_, ?_, ?_, ?_, ?_, ?_, ?_, ?_, ?_⟩,
    rfl, rfl, id0 _ rfl, id0 _ rfl, id0 _ rfl, id0 _ rfl⟩
  · exact csrRow_readWrite .mie rfl nofun v s
  · exact csrRow_readWrite .stvec rfl nofun v s
  · exact csrRow_readWrite .scounteren rfl nofun v s
  · exact csrRow_readWrite .sscratch rfl nofun v s
  · exact csrRow_readWrite .sepc rfl nofun v s
  · exact csrRow_readWrite .scause rfl nofun v s
  · exact csrRow_readWrite .stval rfl nofun v s
  · exact csrRow_readWrite .mip rfl nofun v s
  · exact csrRow_readWrite .satp rfl nofun v s
  · exact csrRow_readWrite .misa rfl nofun v s
  · exact csrRow_readWrite .medeleg rfl nofun v s
  · exact csrRow_readWrite .mideleg rfl nofun v s
  · exact csrRow_readWrite .mie rfl nofun v s
  · exact csrRow_readWrite .mtvec rfl nofun v s
  · exact csrRow_readWrite .mcounteren rfl nofun v s
  · exact csrRow_readWrite .mscratch rfl nofun v s
  · exact csrRow_readWrite .mepc rfl nofun v s
  · exact csrRow_readWrite .mcause rfl nofun v s
  · exact csrRow_readWrite .mtval rfl nofun v s
  · exact csrRow_readWrite .mip rfl nofun v s
  · exact csrRow_readWrite .cycleLo rfl nofun v s
  · exact csrRow_readWrite .cycleHi rfl nofun v s

end Sys2Proof.Machine
end

section
/-! What holds of every state of a run: the induction over a step, said once for any property that each move of the core
keeps, and the three invariants of this core as instances of it. -/

namespace Sys2Proof.Machine

/-! ### Even addresses -/

theorem even_iff_toNat (a : Word) : a.getLsbD 0 = false ↔ a.toNat % 2 = 0 := by
  rw [BitVec.getLsbD, Nat.testBit_zero, decide_eq_false_iff_not]
  omega

theorem even_add {a b : Word} (ha : a.getLsbD 0 = false) (hb : b.getLsbD 0 = false) : (a + b).getLsbD 0 = false := by
  rw [even_iff_toNat] at *
  rw [BitVec.toNat_add]
  omega

theorem sext_even {n : Nat} {off : BitVec n} (h : isEven off = true) : (sext off).getLsbD 0 = false := by
  unfold sext
  rw [BitVec.getLsbD_signExtend]
  by_cases hn : 0 < n
  · simpa [isEven, hn] using h
  · obtain rfl : n = 0 := by omega
    simp [BitVec.msb, BitVec.getMsbD]

theorem indirectTarget_even (base disp : Word) : (indirectTarget base disp).getLsbD 0 = false := by
  unfold indirectTarget
  rw [BitVec.getLsbD_and, show (0xFFFFFFFE#32 : Word).getLsbD 0 = false from rfl, Bool.and_false]

/-- A trap vector is a multiple of 4 (60_exceptions.md R504). -/
theorem trapVector_even (tvec : Word) (isInt : Bool) (cause : Nat) :
    (trapVector tvec isInt cause).getLsbD 0 = false := by
  have base : (tvec &&& 0xFFFFFFFC#32).getLsbD 0 = false := by
    rw [BitVec.getLsbD_and, show (0xFFFFFFFC#32 : Word).getLsbD 0 = false from rfl, Bool.and_false]
  unfold trapVector
  dsimp only
  split
  · refine even_add base ((even_iff_toNat _).2 ?_)
    rw [BitVec.toNat_ofNat]
    omega
  · exact base

/-- Every `next_pc` that a well-formed instruction can leave is even where the program counters are. -/
theorem NextPc.even {i : Instr} {s : State} {n : Word} (h : NextPc i s n) (hi : i.wf = true) (hs : PcsEven s) :
    n.getLsbD 0 = false := by
  obtain ⟨hpc, hnext, -, -⟩ := hs
  cases h with
  | asSet => exact hnext
  | relative off ho => exact even_add hpc (sext_even (ho hi))
  | indirect base disp => exact indirectTarget_even base disp

/-! ### The induction over a step -/

/-- A property that every move of the core keeps. -/
structure StepInvariant (P : State → Prop) : Prop where
  /-- it does not speak of the registers, the reservation and the result -/
  unread : ∀ (s : State) (x : Vector Word 31) (r : Option Word) (q : StepResult),
    P s → P { s with x := x, resv := r, result := q }
  nextPc : ∀ (s : State) (n raw : Word), P s → (PcsEven s → n.getLsbD 0 = false) →
    P { s with nextPc := n, rawInst := raw }
  accesses : ∀ s t : State, Accesses s t → P s → P t
  trap : ∀ (isInt : Bool) (cause : Nat) (tval : Word) (s : State), P s → P (trapEntry isInt cause tval s.pc s)
  csrWrite : ∀ (n : CsrNum) (v : Word) (s : State), P s → P (csrWrite n v s)
  flush : ∀ s : State, P s → P (tlbFlushAll s)
  returnM : ∀ s : State, P s → P (returnFromM s)
  returnS : ∀ s : State, P s → P (returnFromS s)
  commitPc : ∀ s : State, P s → P (commitPc s)

theorem State.setReg_eq (s : State) (r : Reg) (v : Word) : s.setReg r v = { s with x := (s.setReg r v).x } := by
  unfold State.setReg; split <;> rfl

section
variable {P : State → Prop} (hP : StepInvariant P)
include hP

theorem StepInvariant.setReg {s : State} (r : Reg) (v : Word) (hs : P s) : P (s.setReg r v) := by
  rw [State.setReg_eq]; exact hP.unread s _ s.resv s.result hs

theorem StepInvariant.wfiTail {s : State} (hs : P s) : P (wfiTail s) := by
  have hc := hP.commitPc s hs
  rcases wfiTail_cases s with ⟨r, -, h⟩ | ⟨i, -, -, h⟩ <;> rw [h]
  · exact hP.unread _ _ _ r hc
  · exact hP.trap true i 0#32 _ hc

theorem StepInvariant.effect {i : Instr} {s t : State} (hi : i.wf = true) (h : Effect i s t) (hs : P s) : P t := by
  cases h with
  | raises r e v hu => exact hP.trap false e.code v _ (hP.accesses _ _ hu (hP.unread s s.x r s.result hs))
  | @completes u n r r' v hu hn =>
    have hPu := hP.accesses _ _ hu (hP.unread s s.x r s.result hs)
    obtain ⟨-, hpc, hnext, -, hcsr, -⟩ := AccessOnly.fields hu.accessOnly
    have heven : PcsEven u → n.getLsbD 0 = false := fun he => hn.even hi (by
      unfold PcsEven at he; rwa [hpc, hnext, hcsr] at he)
    exact hP.setReg _ _ (hP.unread _ u.x r' u.result (hP.nextPc u n u.rawInst hPu heven))
  | csrWrites num v old => exact hP.setReg _ _ (hP.csrWrite num v s hs)
  | flushes => exact hP.flush s hs
  | returnsFromM => exact hP.returnM s hs
  | returnsFromS => exact hP.returnS s hs
  | waits => exact hP.wfiTail hs

theorem StepInvariant.retire {s : State} (i : Instr) (hs : P s) : P (retire i s) := by
  have hc := hP.commitPc s hs
  rcases retire_cases i s with ⟨-, h⟩ | ⟨-, -, h⟩ <;> rw [h]
  · exact hs
  · rcases checkInterrupts_cases (Machine.commitPc s) with ⟨h, -⟩ | ⟨j, -, -, h⟩ <;> rw [h]
    · exact hc
    · exact hP.trap true j 0#32 _ hc

/-- A fetched instruction is armed with an even `next_pc`. -/
theorem StepInvariant.arm {s u : State} {f : Fetched} (hf : fetch s = .ok f u) (hu : P u) : P (arm f u) := by
  refine hP.nextPc u (u.pc + f.len) f.raw hu fun he => even_add he.1 ?_
  rcases fetch_len hf with h | h <;> rw [h] <;> rfl

/-- Every step keeps what every move keeps. -/
theorem StepInvariant.step {s t : State} (h : step s = .next t) (hs : P s) : P t := by
  have hb : P (beginStep s) := hP.unread s s.x s.resv .noTrap hs
  have hacc := fetch_accesses (beginStep s)
  rcases step_next h with ⟨e, v, u, hf, -, rfl⟩ | ⟨f, u, x, hf, -, -, rfl⟩ | ⟨f, u, i, w, hf, -, hd, hx, rfl⟩ <;>
    rw [hf] at hacc
  · exact hP.trap false e.code v u (hP.accesses _ _ hacc hb)
  · exact hP.trap false _ f.raw u (hP.accesses _ _ hacc hb)
  · have harm := hP.arm hf (hP.accesses _ _ hacc hb)
    exact hP.retire i (hP.effect (decode_wf hd) (exec_effect hx) harm)

end

/-! ### What trap entry writes -/

/-- Trap entry writes the trap registers of its destination (60_exceptions.md R503). -/
theorem trapEntry_cases (isInt : Bool) (cause : Nat) (tval epc : Word) (s : State) :
    trapEntry isInt cause tval epc s = { s with
        csr := { s.csr with
          mstatus := putSIE (putSPP (putSPIE s.csr.mstatus (statusSIE s.csr.mstatus)) (s.priv == .S)) false
          sepc := epc, scause := causeWord isInt cause, stval := tval }
        priv := .S, pc := trapVector s.csr.stvec isInt cause, result := .trap (causeWord isInt cause) }
      ∨ trapEntry isInt cause tval epc s = { s with
        csr := { s.csr with
          mstatus := putMIE (putMPP (putMPIE s.csr.mstatus (statusMIE s.csr.mstatus)) s.priv.bits) false
          mepc := epc, mcause := causeWord isInt cause, mtval := tval }
        priv := .M, pc := trapVector s.csr.mtvec isInt cause, result := .trap (causeWord isInt cause) } := by
  unfold trapEntry
  dsimp only
  split
  · exact .inl rfl
  · exact .inr rfl

@[simp] theorem trapEntry_satp (isInt : Bool) (cause : Nat) (tval epc : Word) (s : State) :
    (trapEntry isInt cause tval epc s).csr.satp = s.csr.satp := by
  rcases trapEntry_cases isInt cause tval epc s with h | h <;> rw [h]

@[simp] theorem trapEntry_cycle (isInt : Bool) (cause : Nat) (tval epc : Word) (s : State) :
    (trapEntry isInt cause tval epc s).csr.cycle = s.csr.cycle := by
  rcases trapEntry_cases isInt cause tval epc s with h | h <;> rw [h] <;> rfl

/-! ### Memory -/

theorem translate_mem_wf (va : Word) (kind : Access) (s : State) (hs : s.mem.wf = true) :
    (translate va kind s).After fun t => t.mem.wf = true :=
  (translate_after va kind s).mono fun t ht => by
    obtain ⟨-, -, -, -, -, -, -, hm, -⟩ := TranslationOnly.fields ht
    rwa [hm]

theorem memoryCanonical_invariant : StepInvariant fun s => s.mem.wf = true where
  unread _ _ _ _ hs := hs
  nextPc _ _ _ hs _ := hs
  accesses s t h hs := h.keeps translate_mem_wf (fun op pa n _ hu => busAfter_wf op pa n hu) hs
  trap _ _ _ _ hs := by rwa [trapEntry_mem]
  csrWrite _ _ _ hs := by rwa [csrWrite_mem]
  flush _ hs := hs
  returnM _ hs := hs
  returnS _ hs := hs
  commitPc _ hs := hs

/-! ### The TLB -/

/-- The invariant of the TLB speaks of `satp`, `asid_cache` and the three tables only. -/
theorem TlbLegal.congr {s t : State} (h : TlbLegal s) (hsatp : t.csr.satp = s.csr.satp) (ha : t.asidCache = s.asidCache)
    (hi : t.itlb = s.itlb) (hd : t.dtlb = s.dtlb) (hs : t.stlb = s.stlb) : TlbLegal t := by
  unfold TlbLegal at *
  rwa [hsatp, ha, hi, hd, hs]

/-- What holds of a valid superpage entry (21_mmu_tlb.md R158, R165, R167, R183). -/
abbrev SuperEntryLegal (asid : BitVec 9) (e : TlbEntry) : Prop :=
  EntryLegal asid .superPage e ∧ (e.valid = true → ptePpn0 e.pte = 0#10)

/-- Replacing one set of a table keeps what the new set keeps. -/
theorem updateSet_forall {sets ways : Nat} [NeZero sets] {P : TlbEntry → Prop} {t : SetTlb sets ways} (va : Word)
    {f : Vector TlbEntry ways → Vector TlbEntry ways} (h : ∀ (i : Fin sets) (j : Fin ways), P t[i][j])
    (hf : ∀ w : Vector TlbEntry ways, (∀ j : Fin ways, P w[j]) → ∀ j : Fin ways, P (f w)[j])
    (i : Fin sets) (j : Fin ways) : P (updateSet t va f)[i][j] := by
  unfold updateSet
  by_cases hi : setIndex sets va = i
  · subst hi
    simpa using hf _ (h (setIndex sets va)) j
  · have hne : (setIndex sets va).val ≠ i.val := fun e => hi (Fin.ext e)
    simpa [Vector.getElem_set_ne, hne] using h i j

theorem hitSet_forall {sets ways : Nat} [NeZero sets] {P : TlbEntry → Prop} (hP : ∀ e r, P e → P { e with lru := r })
    {t t' : SetTlb sets ways} {va : Word} {e : TlbEntry} (hh : hitSet t va = some (e, t'))
    (h : ∀ (i : Fin sets) (j : Fin ways), P t[i][j]) (i : Fin sets) (j : Fin ways) : P t'[i][j] := by
  unfold hitSet at hh
  split at hh
  · rename_i k _
    cases hh
    exact updateSet_forall va h (fun w hw j => promote_forall hP hw k j) i j
  · cases hh

theorem hitSuper_tlbLegal {va : Word} {s t : State} {e : TlbEntry} (h : hitSuper va s = some (e, t))
    (hs : TlbLegal s) : TlbLegal t := by
  obtain ⟨ha, hi, hd, hst⟩ := hs
  unfold hitSuper at h
  split at h
  · rename_i k _
    cases h
    exact ⟨ha, hi, hd, promote_forall (P := SuperEntryLegal s.asidCache) (fun _ _ he => he) hst k⟩
  · cases h

theorem hitBase_tlbLegal {va : Word} {kind : Access} {s t : State} {e : TlbEntry} (h : hitBase va kind s = some (e, t))
    (hs : TlbLegal s) : TlbLegal t := by
  obtain ⟨ha, hi, hd, hst⟩ := hs
  have keep : ∀ e r, EntryLegal s.asidCache .basePage e → EntryLegal s.asidCache .basePage { e with lru := r } :=
    fun _ _ he => he
  unfold hitBase at h
  cases kind <;> obtain ⟨⟨e', t'⟩, hh, h⟩ := Option.map_eq_some_iff.1 h <;> cases h
  · exact ⟨ha, hi, hitSet_forall keep hh hd, hst⟩
  · exact ⟨ha, hi, hitSet_forall keep hh hd, hst⟩
  · exact ⟨ha, hitSet_forall keep hh hi, hd, hst⟩

/-- A walk that ends at a superpage ends at an aligned one: the other leaves raise (21_mmu_tlb.md R158). -/
theorem walk_superPage {va pte : Word} {kind : Access} {s u : State} (h : walk va kind s = .ok (pte, .superPage) u) :
    ptePpn0 pte = 0#10 := by
  unfold walk at h
  obtain ⟨p, t, -, h⟩ := Res.bind_eq_ok.1 h
  split at h
  · cases h
  · split at h
    · split at h
      · rename_i hp; cases h; exact hp
      · cases h
    · unfold walkLevel0 at h
      obtain ⟨p0, t0, -, h⟩ := Res.bind_eq_ok.1 h
      split at h <;> cases h

/-- The entry of a walk is legal (21_mmu_tlb.md R165, R167). -/
theorem newEntry_legal (va pte : Word) (level : PageLevel) (asid : BitVec 9) :
    EntryLegal asid level (newEntry va pte level asid) := fun _ => ⟨rfl, rfl, rfl, fun _ => rfl⟩

theorem insertEntry_tlbLegal {va pte : Word} {level : PageLevel} (kind : Access) {s : State} (hs : TlbLegal s)
    (hp : level = .superPage → ptePpn0 pte = 0#10) : TlbLegal (insertEntry va pte level kind s) := by
  obtain ⟨ha, hi, hd, hst⟩ := hs
  have hfill : ∀ {n : Nat} [NeZero n] (w : Vector TlbEntry n),
      (∀ j : Fin n, EntryLegal s.asidCache .basePage w[j]) →
        ∀ j : Fin n, EntryLegal s.asidCache .basePage (fill w (newEntry va pte .basePage s.asidCache))[j] :=
    fun w hw => fill_forall (fun _ _ he => he) hw (newEntry_legal va pte .basePage s.asidCache)
  cases level with
  | superPage =>
    exact ⟨ha, hi, hd, fill_forall (P := SuperEntryLegal s.asidCache) (fun _ _ he => he) hst
      ⟨newEntry_legal va pte .superPage s.asidCache, fun _ => hp rfl⟩⟩
  | basePage =>
    cases kind with
    | R => exact ⟨ha, hi, updateSet_forall va hd hfill, hst⟩
    | W => exact ⟨ha, hi, updateSet_forall va hd hfill, hst⟩
    | X => exact ⟨ha, updateSet_forall va hi hfill, hd, hst⟩

theorem checkedAddr_after {P : State → Prop} (e : TlbEntry) (va : Word) (kind : Access) (eff : Priv) {s : State}
    (hs : P s) : (checkedAddr e va kind eff s).After P := by
  rcases checkedAddr_cases e va kind eff s with h | h <;> rw [h] <;> exact hs

theorem busAfter_tlbLegal (op : BusOp) (pa : PAddr) (n : Nat) (s : State) (hs : TlbLegal s) :
    TlbLegal (busAfter s op pa n) :=
  hs.congr (by simp) (by simp) (by simp) (by simp) (by simp)

/-- A walk touches no table. -/
theorem walk_tlbLegal (va : Word) (kind : Access) {s : State} (hs : TlbLegal s) : (walk va kind s).After TlbLegal := by
  have same : ∀ u, BusOnly s u → TlbLegal u := fun u hu => by
    rw [BusOnly] at hu; rw [hu]; exact hs
  obtain ⟨u, hu, ⟨pte, level, h⟩ | h | h⟩ := walk_cases va kind s <;> rw [h] <;> exact same u hu

theorem translate_tlbLegal (va : Word) (kind : Access) (s : State) (hs : TlbLegal s) :
    (translate va kind s).After TlbLegal := by
  unfold translate
  split
  · exact hs
  · dsimp only
    split
    · rename_i h; exact checkedAddr_after _ _ _ _ (hitSuper_tlbLegal h hs)
    · split
      · rename_i h; exact checkedAddr_after _ _ _ _ (hitBase_tlbLegal h hs)
      · have hw := walk_tlbLegal va kind hs
        rcases hwalk : walk va kind s with ⟨⟨pte, level⟩, u⟩ | ⟨e, v, u⟩ | r <;> rw [hwalk] at hw
        · exact checkedAddr_after _ _ _ _ (insertEntry_tlbLegal kind hw fun hl =>
            walk_superPage ((show level = PageLevel.superPage from hl) ▸ hwalk))
        · exact hw
        · trivial

/-- An invalidation leaves the tables legal for an address-space id for which it leaves each entry so. -/
theorem dropEntries_tables {p : TlbEntry → Bool} {s : State} {asid : BitVec 9} (hs : TlbLegal s)
    (hp : ∀ level e, EntryLegal s.asidCache level e →
      EntryLegal asid level (if p e then { e with valid := false } else e)) :
    (∀ (i : Fin Config.itlbSets) (j : Fin Config.itlbWays), EntryLegal asid .basePage (dropEntries p s).itlb[i][j])
      ∧ (∀ (i : Fin Config.dtlbSets) (j : Fin Config.dtlbWays), EntryLegal asid .basePage (dropEntries p s).dtlb[i][j])
      ∧ (∀ j : Fin Config.stlbEntries, SuperEntryLegal asid (dropEntries p s).stlb[j]) := by
  obtain ⟨-, hi, hd, hst⟩ := hs
  simp only [dropEntries_itlb, dropEntries_dtlb, dropEntries_stlb, dropSets_getElem, dropWays_getElem]
  refine ⟨fun i j => hp _ _ (hi i j), fun i j => hp _ _ (hd i j), fun j => ⟨hp _ _ (hst j).1, ?_⟩⟩
  split
  · exact nofun
  · exact (hst j).2

theorem tlbFlushAll_tlbLegal {s : State} (hs : TlbLegal s) : TlbLegal (tlbFlushAll s) :=
  ⟨hs.1, dropEntries_tables hs fun _ _ _ => nofun⟩

/-- A `satp` write leaves global entries only, which serve every address space (21_mmu_tlb.md R177, R183). -/
theorem csrWrite_tlbLegal (n : CsrNum) (v : Word) (s : State) (hs : TlbLegal s) : TlbLegal (csrWrite n v s) := by
  by_cases hn : n = satpNum
  · rw [hn, csrWrite_satp]
    have hd := dropEntries_tables (p := fun e => !e.global) (asid := satpAsid v) hs ?_
    · exact ⟨rfl, hd⟩
    · intro level e he
      cases hg : e.global
      · exact nofun
      · intro hv
        obtain ⟨hl, hp, hgl, -⟩ := he hv
        exact ⟨hl, hp, hgl, fun hf => by simp [hg] at hf⟩
  · rw [csrWrite_not_satp hn]
    refine hs.congr ?_ rfl rfl rfl rfl
    cases hr : csrRow n with
    | none => rw [csrWrite_unmapped hr]
    | some r =>
      obtain ⟨hmem, hnum⟩ := csrRow_mem hr
      show (csrWrite n v s).csr.get .satp = _
      rw [csrWrite_csr hr, Csrs.get_put_other _ fun h => hn (hnum ▸ csrMap_satp r hmem h.symm)]
      rfl

theorem tlbLegal_invariant : StepInvariant TlbLegal where
  unread _ _ _ _ hs := hs
  nextPc _ _ _ hs _ := hs
  accesses _ _ h hs := h.keeps translate_tlbLegal busAfter_tlbLegal hs
  trap _ _ _ _ hs := hs.congr (by simp) (by simp) (by simp) (by simp) (by simp)
  csrWrite := csrWrite_tlbLegal
  flush _ hs := tlbFlushAll_tlbLegal hs
  returnM _ hs := hs
  returnS _ hs := hs
  commitPc _ hs := hs

/-- Settles O10: every translation and CSR write keeps the TLB legal, and nothing else in a step touches it. -/
theorem stepKeepsTlbLegal : Obligations.StepKeepsTlbLegal :=
  fun _ _ hs h => tlbLegal_invariant.step h hs

/-! ### The control state -/

/-- The bits that a storage word may hold: those that some row of R40 writes, and all of the words no row confines. -/
def CsrSlot.legalBits : CsrSlot → Word
  | .mstatus => 0x001E19AA#32
  | .medeleg => 0x0000B3FF#32
  | .mideleg => 0x00000222#32
  | .mie => 0x00000AAA#32
  | .mip => 0x00000AAA#32
  | .mtvec => 0xFFFFFFFD#32
  | .stvec => 0xFFFFFFFD#32
  | .mepc => 0xFFFFFFFE#32
  | .sepc => 0xFFFFFFFE#32
  | _ => 0xFFFFFFFF#32

/-- No row writes a bit outside them. -/
theorem csrMap_wmask_legal : ∀ r ∈ csrMap, r.wmask &&& ~~~r.slot.legalBits = 0#32 := by decide

/-- The rows of `misa` write nothing (R43). -/
theorem csrMap_misa : ∀ r ∈ csrMap, r.slot = .misa → r.wmask = 0#32 := by decide

/-- A mask of all bits but one confines that bit. -/
theorem outside_one_bit_iff {m : Word} {j : Nat} (hm : ∀ k < 32, m.getLsbD k = (k != j)) (w : Word) :
    w &&& ~~~m = 0#32 ↔ w.getLsbD j = false := by
  rw [outside_eq_zero_iff]
  constructor
  · intro h
    by_contra hw
    rw [Bool.not_eq_false] at hw
    have := h j hw
    rw [hm j (BitVec.lt_of_getLsbD hw)] at this
    simp at this
  · intro h k hk
    rw [hm k (BitVec.lt_of_getLsbD hk), bne_iff_ne]
    rintro rfl
    simp [h] at hk

/-- The masks of the control invariant, one storage word at a time (10_state.md R40, R43). -/
theorem confined_iff (c : Csrs) :
    (MasksLegal c ∧ c.mepc.getLsbD 0 = false ∧ c.sepc.getLsbD 0 = false)
      ↔ (∀ q : CsrSlot, c.get q &&& ~~~q.legalBits = 0#32) ∧ c.misa = Config.misaValue := by
  have bit0 := outside_one_bit_iff (m := 0xFFFFFFFE#32) (j := 0) (by decide)
  have bit1 := outside_one_bit_iff (m := 0xFFFFFFFD#32) (j := 1) (by decide)
  constructor
  · rintro ⟨⟨hstatus, hed, hid, hie, hip, hmt, hst, hmisa⟩, hmepc, hsepc⟩
    refine ⟨fun q => ?_, hmisa⟩
    cases q with
    | mstatus => exact hstatus
    | medeleg => exact hed
    | mideleg => exact hid
    | mie => exact hie
    | mip => exact hip
    | mtvec => exact (bit1 _).2 hmt
    | stvec => exact (bit1 _).2 hst
    | mepc => exact (bit0 _).2 hmepc
    | sepc => exact (bit0 _).2 hsepc
    | _ => exact BitVec.and_zero
  · rintro ⟨h, hmisa⟩
    exact ⟨⟨h .mstatus, h .medeleg, h .mideleg, h .mie, h .mip, (bit1 _).1 (h .mtvec), (bit1 _).1 (h .stvec), hmisa⟩,
      (bit0 _).1 (h .mepc), (bit0 _).1 (h .sepc)⟩

/-- The word that a write through a row stores keeps to the legal bits. -/
theorem csrStored_legal {r : CsrRow} (hr : r ∈ csrMap) {old : Word} (v : Word)
    (h : old &&& ~~~r.slot.legalBits = 0#32) : csrStored r old v &&& ~~~r.slot.legalBits = 0#32 := by
  have hw := maskedWrite_outside v h (csrMap_wmask_legal r hr)
  by_cases hm : r.slot = .mstatus
  · rw [csrStored_mstatus hm, legalMstatus]
    split
    · rw [hm] at hw ⊢
      exact putBit_outside _ (by decide) (putBit_outside _ (by decide) hw)
    · exact hw
  · rw [csrStored_other hm]; exact hw

/-- What the control invariant says of the CSR words (10_state.md R40, R43, R53, R61). -/
abbrev ControlCsrsLegal (c : Csrs) : Prop :=
  MasksLegal c ∧ statusMPP c.mstatus ≠ 2#2 ∧ c.mepc.getLsbD 0 = false ∧ c.sepc.getLsbD 0 = false

/-- The control invariant. -/
abbrev ControlLegal (s : State) : Prop :=
  ControlCsrsLegal s.csr ∧ s.pc.getLsbD 0 = false ∧ s.nextPc.getLsbD 0 = false

theorem controlLegal_iff (s : State) :
    ControlLegal s ↔ MasksLegal s.csr ∧ PreviousPrivilegeLegal s ∧ PcsEven s := by
  constructor
  · rintro ⟨⟨hm, hp, hme, hse⟩, hpc, hn⟩; exact ⟨hm, hp, hpc, hn, hme, hse⟩
  · rintro ⟨hm, hp, hpc, hn, hme, hse⟩; exact ⟨⟨hm, hp, hme, hse⟩, hpc, hn⟩

/-- A write through a row keeps the CSR words legal. -/
theorem put_controlCsrsLegal {c : Csrs} {r : CsrRow} (hr : r ∈ csrMap) (v : Word) (hc : ControlCsrsLegal c) :
    ControlCsrsLegal (c.put r.slot (csrStored r (c.get r.slot) v)) := by
  obtain ⟨hmasks, hmpp, heven⟩ := hc
  obtain ⟨hbits, hmisa⟩ := (confined_iff c).1 ⟨hmasks, heven⟩
  have hbits' : ∀ q, (c.put r.slot (csrStored r (c.get r.slot) v)).get q &&& ~~~q.legalBits = 0#32 := fun q => by
    rw [Csrs.get_put]
    split
    · rename_i hq; rw [hq.1]; exact csrStored_legal hr v (hbits r.slot)
    · exact hbits q
  have hmisa' : (c.put r.slot (csrStored r (c.get r.slot) v)).get .misa = Config.misaValue := by
    by_cases hs : r.slot = .misa
    · rw [csrStored_other (by rw [hs]; decide), csrMap_misa r hr hs, maskedWrite_none, hs]; exact hmisa
    · rw [Csrs.get_put_other _ (Ne.symm hs)]; exact hmisa
  have hmpp' : statusMPP ((c.put r.slot (csrStored r (c.get r.slot) v)).get .mstatus) ≠ 2#2 := by
    by_cases hs : r.slot = .mstatus
    · rw [csrStored_mstatus hs, hs, Csrs.get_put_same _ (by decide)]
      exact legalMstatus_legal _ hmpp
    · rw [Csrs.get_put_other _ (Ne.symm hs)]; exact hmpp
  obtain ⟨hmasks', heven'⟩ := (confined_iff _).2 ⟨hbits', hmisa'⟩
  exact ⟨hmasks', hmpp', heven'⟩

theorem csrWrite_controlLegal (n : CsrNum) (v : Word) (s : State) (hs : ControlLegal s) :
    ControlLegal (csrWrite n v s) := by
  cases hr : csrRow n with
  | none => rwa [csrWrite_unmapped hr]
  | some r =>
    obtain ⟨hc, hpcs⟩ := hs
    refine ⟨?_, by simpa using hpcs⟩
    rw [csrWrite_csr hr]
    exact put_controlCsrsLegal (csrRow_mem hr).1 v hc

theorem Priv.bits_ne_two (p : Priv) : p.bits ≠ 2#2 := by
  cases p <;> decide

/-- Trap entry saves an even pc, a legal privilege and bits of `mstatus` that some row writes (60_exceptions.md R503). -/
theorem trapEntry_controlLegal (isInt : Bool) (cause : Nat) (tval : Word) (s : State) (hs : ControlLegal s) :
    ControlLegal (trapEntry isInt cause tval s.pc s) := by
  obtain ⟨⟨⟨hstatus, hmasks⟩, hmpp, hmepc, hsepc⟩, hpc, hnext⟩ := hs
  rcases trapEntry_cases isInt cause tval s.pc s with h | h <;> rw [h]
  · refine ⟨⟨⟨?_, hmasks⟩, ?_, hmepc, hpc⟩, trapVector_even _ _ _, hnext⟩
    · exact putBit_outside _ (by decide) (putBit_outside _ (by decide) (putBit_outside _ (by decide) hstatus))
    · simpa using hmpp
  · refine ⟨⟨⟨?_, hmasks⟩, ?_, hpc, hsepc⟩, trapVector_even _ _ _, hnext⟩
    · exact putBit_outside _ (by decide) (putBit_outside _ (by decide) (putBit_outside _ (by decide)
        (putBit_outside _ (by decide) hstatus)))
    · simpa [statusMPP_putMPP] using s.priv.bits_ne_two

/-- A return to U clears MPRV, whose bit some row writes (46_system_csr.md R388, R389). -/
theorem clearMPRV_outside (p : Priv) {w m : Word} (hm : m.getLsbD 17 = true) (hw : w &&& ~~~m = 0#32) :
    (if p = .U then putMPRV w false else w) &&& ~~~m = 0#32 := by
  split
  · exact putBit_outside _ hm hw
  · exact hw

theorem statusMPP_clearMPRV (p : Priv) (w : Word) :
    statusMPP (if p = .U then putMPRV w false else w) = statusMPP w := by
  split
  · exact statusMPP_putMPRV w false
  · rfl

/-- MRET leaves MPP = U and the even `mepc` as `next_pc` (46_system_csr.md R388). -/
theorem returnFromM_controlLegal (s : State) (hs : ControlLegal s) : ControlLegal (returnFromM s) := by
  obtain ⟨⟨⟨hstatus, hmasks⟩, hmpp, hmepc, hsepc⟩, hpc, hnext⟩ := hs
  refine ⟨⟨⟨clearMPRV_outside _ (by decide) ?_, hmasks⟩, ?_, hmepc, hsepc⟩, hpc, hmepc⟩
  · exact putBit_outside _ (by decide) (putBit_outside _ (by decide) (putBit_outside _ (by decide)
      (putBit_outside _ (by decide) hstatus)))
  · refine ne_of_eq_of_ne (statusMPP_clearMPRV _ _) ?_
    rw [statusMPP_putMPP]
    decide

/-- SRET leaves MPP and the even `sepc` as `next_pc` (46_system_csr.md R389). -/
theorem returnFromS_controlLegal (s : State) (hs : ControlLegal s) : ControlLegal (returnFromS s) := by
  obtain ⟨⟨⟨hstatus, hmasks⟩, hmpp, hmepc, hsepc⟩, hpc, hnext⟩ := hs
  refine ⟨⟨⟨clearMPRV_outside _ (by decide) ?_, hmasks⟩, ?_, hmepc, hsepc⟩, hpc, hsepc⟩
  · exact putBit_outside _ (by decide) (putBit_outside _ (by decide) (putBit_outside _ (by decide) hstatus))
  · refine ne_of_eq_of_ne (statusMPP_clearMPRV _ _) ?_
    simpa using hmpp

theorem accesses_controlLegal (s t : State) (h : Accesses s t) (hs : ControlLegal s) : ControlLegal t := by
  obtain ⟨-, hpc, hnext, -, hcsr, -⟩ := AccessOnly.fields h.accessOnly
  unfold ControlLegal
  rwa [hpc, hnext, hcsr]

theorem controlLegal_invariant : StepInvariant ControlLegal where
  unread _ _ _ _ hs := hs
  nextPc s _ _ hs hn := ⟨hs.1, hs.2.1, hn ((controlLegal_iff s).1 hs).2.2⟩
  accesses := accesses_controlLegal
  trap := trapEntry_controlLegal
  csrWrite := csrWrite_controlLegal
  flush _ hs := hs
  returnM := returnFromM_controlLegal
  returnS := returnFromS_controlLegal
  commitPc _ hs := ⟨hs.1, hs.2.2, hs.2.2⟩

/-- Settles O9: every move of a step keeps the control state legal. -/
theorem stepKeepsControlStateLegal : Obligations.StepKeepsControlStateLegal := fun s t hm hp he h =>
  (controlLegal_iff t).1 (controlLegal_invariant.step h ((controlLegal_iff s).2 ⟨hm, hp, he⟩))

/-! ### Reachable states -/

/-- The state after a Reset is legal, whatever canonical memory and whatever bus it keeps (10_state.md R70). -/
theorem reset_legal {m : Memory} (hm : m.wf = true) (bus : BusMap) (calls : Nat) :
    Legal { State.reset with mem := m, bus := bus, busCalls := calls } := by
  refine ⟨hm, (by decide : MasksLegal Csrs.reset), (by decide : statusMPP Csrs.reset.mstatus ≠ 2#2),
    (by decide : PcsEven State.reset), (by decide : 0#9 = satpAsid 0#32), ?_, ?_, ?_⟩
  all_goals simp [State.reset, TlbEntry.reset]

theorem setReg_legal {s : State} (r : Reg) (v : Word) (hs : Legal s) : Legal (s.setReg r v) := by
  rw [State.setReg_eq]; exact hs

/-- An injection writes bits of `mip` that an interrupt line may hold (60_exceptions.md R512). -/
theorem injectInterrupts_legal {s : State} (sw timer ext : Bool) (hs : Legal s) :
    Legal (s.injectInterrupts sw timer ext) := by
  obtain ⟨hmem, ⟨hstatus, hed, hid, hie, hip, hrest⟩, hother⟩ := hs
  refine ⟨hmem, ⟨hstatus, hed, hid, hie, ?_, hrest⟩, hother⟩
  exact putBit_outside _ (by decide) (putBit_outside _ (by decide) (putBit_outside _ (by decide) hip))

theorem step_legal {s t : State} (h : step s = .next t) (hs : Legal s) : Legal t := by
  obtain ⟨hmem, hmasks, hmpp, heven, htlb⟩ := hs
  obtain ⟨hmasks', hmpp', heven'⟩ := stepKeepsControlStateLegal s t hmasks hmpp heven h
  exact ⟨memoryCanonical_invariant.step h hmem, hmasks', hmpp', heven', tlbLegal_invariant.step h htlb⟩

/-- Every state of a run is legal. -/
theorem run_legal {p : Phase} {s : State} (h : Run p s) : Legal s := by
  induction h with
  | powerOn bus => exact reset_legal rfl bus 0
  | reset _ ih => exact reset_legal ih.1 _ _
  | preSeed _ ih => exact setReg_legal _ _ (setReg_legal _ _ ih)
  | inject sw timer ext _ ih => exact injectInterrupts_legal sw timer ext ih
  | write a b _ ih => exact ⟨Memory.wf_write a b ih.1, ih.2⟩
  | step _ h ih => exact step_legal h ih

/-- Settles O12, by induction over the run. -/
theorem reachableStatesAreLegal : Obligations.ReachableStatesAreLegal := fun _ ⟨_, h⟩ => run_legal h

end Sys2Proof.Machine
end

section
/-! What an instruction leaves alone: the general registers, the CSR words and the cycle counter, read off its effect. -/

namespace Sys2Proof.Machine

/-! ### Registers -/

@[simp] theorem trapEntry_reg (isInt : Bool) (cause : Nat) (tval epc : Word) (s : State) (r : Reg) :
    (trapEntry isInt cause tval epc s).reg r = s.reg r := State.reg_congr (trapEntry_x isInt cause tval epc s) r

@[simp] theorem csrWrite_reg (n : CsrNum) (v : Word) (s : State) (r : Reg) : (csrWrite n v s).reg r = s.reg r :=
  State.reg_congr (csrWrite_x n v s) r

theorem State.reg_setReg_other {r q : Reg} (s : State) (v : Word) (h : q ≠ r) : (s.setReg r v).reg q = s.reg q := by
  rw [State.reg_setReg, if_neg h]
  split
  · rename_i hq; rw [hq, State.reg_zero]
  · rfl

theorem Accesses.reg {s t : State} (h : Accesses s t) (r : Reg) : t.reg r = s.reg r :=
  State.reg_congr (AccessOnly.fields h.accessOnly).1 r

theorem wfiTail_reg (s : State) (r : Reg) : (wfiTail s).reg r = s.reg r := by
  rcases wfiTail_cases s with ⟨q, -, h⟩ | ⟨i, -, -, h⟩ <;> rw [h]
  · rfl
  · rw [trapEntry_reg, commitPc_reg]

theorem Effect.reg {i : Instr} {s t : State} (h : Effect i s t) {q : Reg} (hq : q ≠ destOf i) : t.reg q = s.reg q := by
  cases h with
  | raises r e v hu => exact (trapEntry_reg _ _ _ _ _ q).trans (hu.reg q)
  | completes r r' v hu hn => exact (State.reg_setReg_other _ _ hq).trans (hu.reg q)
  | csrWrites num v old => exact (State.reg_setReg_other _ _ hq).trans (csrWrite_reg num v s q)
  | flushes => rfl
  | returnsFromM => rfl
  | returnsFromS => rfl
  | waits => exact wfiTail_reg s q

/-- Settles O16: no effect of an instruction writes another register than its destination. -/
theorem onlyDestinationRegisterChanges : Obligations.OnlyDestinationRegisterChanges :=
  fun _ _ _ h _ hq => (exec_effect h).reg hq

/-! ### CSR words, privilege and `asid_cache` -/

/-- An exception shows in the result. -/
theorem takeException_isTrap (e : Exc) (v : Word) (s : State) : (takeException e v s).result.isTrap = true := by
  unfold takeException
  rw [trapEntry_result]; rfl

/-- An instruction that takes no exception keeps the CSR words, the privilege and `asid_cache`, but for CSR writes, the
returns and WFI (10_state.md R38). -/
theorem Effect.control {i : Instr} {s t : State} (h : Effect i s t) (ht : t.result.isTrap = false) :
    (t.csr = s.csr ∧ t.priv = s.priv ∧ t.asidCache = s.asidCache) ∨ (isCsrInstr i = true ∧ s.priv ≠ .U)
      ∨ (i = .mret ∧ s.priv = .M) ∨ (i = .sret ∧ s.priv ≠ .U) ∨ i = .wfi := by
  cases h with
  | raises r e v hu => rw [takeException_isTrap] at ht; cases ht
  | completes r r' v hu hn =>
    obtain ⟨-, -, -, hp, hc, -, ha, -⟩ := AccessOnly.fields hu.accessOnly
    exact .inl ⟨by simpa using hc, by simpa using hp, by simpa using ha⟩
  | csrWrites num v old hi hn => exact .inr (.inl ⟨hi, csrCheck_write_priv hn⟩)
  | flushes => exact .inl ⟨rfl, rfl, rfl⟩
  | returnsFromM hi hp => exact .inr (.inr (.inl ⟨hi, hp⟩))
  | returnsFromS hi hp => exact .inr (.inr (.inr (.inl ⟨hi, hp⟩)))
  | waits hi => exact .inr (.inr (.inr (.inr hi)))

/-- Settles O20: in U-mode the gate lets no CSR write pass, and MRET and SRET trap. -/
theorem userModeAndPlainInstructionsKeepCsrs : Obligations.UserModeAndPlainInstructionsKeepCsrs := by
  constructor
  · intro i s t _ h ht hcsr hmret hsret hwfi
    rcases (exec_effect h).control ht with ⟨hc, hp, -⟩ | ⟨hi, -⟩ | ⟨hi, -⟩ | ⟨hi, -⟩ | hi
    · exact ⟨hc, hp⟩
    · rw [hcsr] at hi; cases hi
    · exact absurd hi hmret
    · exact absurd hi hsret
    · exact absurd hi hwfi
  · intro i s t hU _ h ht hwfi
    rcases (exec_effect h).control ht with ⟨hc, hp, ha⟩ | ⟨-, hp⟩ | ⟨-, hp⟩ | ⟨-, hp⟩ | hi
    · exact ⟨hc, hp.trans hU, ha⟩
    · exact absurd hU hp
    · rw [hU] at hp; cases hp
    · exact absurd hU hp
    · exact absurd hi hwfi

/-! ### The cycle counter -/

/-- The carry between the halves makes the tick one addition of 64 bits (10_state.md R27). -/
theorem tick_cycle (c : Csrs) : c.tick.cycle = c.cycle + 1#64 := by
  unfold Csrs.cycle Csrs.tick
  dsimp only
  have hlo := c.cycleLo.isLt
  have hhi := c.cycleHi.isLt
  refine BitVec.eq_of_toNat_eq ?_
  rw [BitVec.toNat_add, BitVec.toNat_append, BitVec.toNat_append, ← Nat.shiftLeft_add_eq_or_of_lt (BitVec.isLt _),
    ← Nat.shiftLeft_add_eq_or_of_lt (BitVec.isLt _), Nat.shiftLeft_eq, Nat.shiftLeft_eq, BitVec.toNat_add,
    BitVec.toNat_add]
  split
  · rename_i h
    have : c.cycleLo.toNat = 0xFFFFFFFF := congrArg BitVec.toNat h
    rw [this]
    simp only [BitVec.toNat_ofNat]
    omega
  · rename_i h
    have : c.cycleLo.toNat ≠ 0xFFFFFFFF := fun e => h (BitVec.eq_of_toNat_eq e)
    simp only [BitVec.toNat_ofNat]
    omega

/-- The cause value of an interrupt has its top bit set, that of an exception has not (60_exceptions.md R480, R503). -/
theorem causeWord_interrupt_ne (i : Nat) (e : Exc) : causeWord true i ≠ BitVec.ofNat 32 e.code := by
  intro h
  have hi : (causeWord true i).getLsbD 31 = true := by
    rw [causeWord, if_pos rfl, BitVec.getLsbD_or]; rfl
  rw [h] at hi
  cases e <;> cases hi

/-- A step that commits: the counter has advanced by 1 and no exception is the result (R27, R560). -/
abbrev CountedOne (s t : State) : Prop :=
  t.csr.cycle = s.csr.cycle + 1#64 ∧ ∀ e : Exc, t.result ≠ .trap (BitVec.ofNat 32 e.code)

/-- An interrupt taken after the commit does not count. -/
theorem interrupt_countedOne (i : Nat) (tval epc : Word) (s : State) :
    CountedOne s (trapEntry true i tval epc (commitPc s)) := by
  refine ⟨by rw [trapEntry_cycle, commitPc_csr, tick_cycle], fun e h => ?_⟩
  rw [trapEntry_result] at h
  exact causeWord_interrupt_ne i e (StepResult.trap.inj h)

theorem wfiTail_countedOne (s : State) : CountedOne s (wfiTail s) := by
  rcases wfiTail_cases s with ⟨q, hq, h⟩ | ⟨i, -, -, h⟩ <;> rw [h]
  · refine ⟨tick_cycle s.csr, fun e he => ?_⟩
    rcases hq with rfl | rfl <;> cases he
  · exact interrupt_countedOne i _ _ s

theorem commit_countedOne {s : State} (hs : s.result = .noTrap) : CountedOne s (checkInterrupts (commitPc s)) := by
  rcases checkInterrupts_cases (commitPc s) with ⟨h, -⟩ | ⟨i, -, -, h⟩ <;> rw [h]
  · refine ⟨tick_cycle s.csr, fun e he => ?_⟩
    rw [commitPc_result, hs] at he
    cases he
  · exact interrupt_countedOne i _ _ s

/-- An exception does not count. -/
theorem takeException_cycle (e : Exc) (v : Word) (s : State) : (takeException e v s).csr.cycle = s.csr.cycle :=
  trapEntry_cycle _ _ _ _ s

/-- The result names the exception. -/
theorem takeException_result (e : Exc) (v : Word) (s : State) :
    (takeException e v s).result = .trap (BitVec.ofNat 32 e.code) := by
  rw [takeException, trapEntry_result, causeWord_exception]

/-- What an instruction that is no CSR instruction and no WFI does before the commit: it takes an exception, or it leaves
the counter and the result. -/
theorem Effect.cycle {i : Instr} {s t : State} (h : Effect i s t) (hi : isCsrInstr i = false) (hw : i ≠ .wfi) :
    (t.csr.cycle = s.csr.cycle ∧ ∃ e : Exc, t.result = .trap (BitVec.ofNat 32 e.code))
      ∨ (t.csr.cycle = s.csr.cycle ∧ t.result = s.result) := by
  cases h with
  | raises r e v hu =>
    obtain ⟨-, -, -, -, hc, -⟩ := AccessOnly.fields hu.accessOnly
    exact .inl ⟨by rw [takeException_cycle, hc], e, takeException_result e v _⟩
  | completes r r' v hu hn =>
    obtain ⟨-, -, -, -, hc, -, -, hr, -⟩ := AccessOnly.fields hu.accessOnly
    exact .inr ⟨by simp [hc], by simpa using hr⟩
  | csrWrites num v old hcsr => rw [hi] at hcsr; cases hcsr
  | flushes => exact .inr ⟨rfl, rfl⟩
  | returnsFromM => exact .inr ⟨rfl, rfl⟩
  | returnsFromS => exact .inr ⟨rfl, rfl⟩
  | waits h => exact absurd h hw

/-- WFI's meaning ends in its own tail (46_system_csr.md R392). -/
theorem retire_wfi (s : State) : retire .wfi s = s := by
  rcases retire_cases .wfi s with ⟨-, h⟩ | ⟨-, h, -⟩
  · exact h
  · exact absurd rfl h

/-- After a committing instruction that is no WFI the step commits; after an exception it does not. -/
theorem retire_counts {i : Instr} {s w : State} (hs : s.result = .noTrap) (hw : i ≠ .wfi)
    (h : (w.csr.cycle = s.csr.cycle ∧ ∃ e : Exc, w.result = .trap (BitVec.ofNat 32 e.code))
      ∨ (w.csr.cycle = s.csr.cycle ∧ w.result = s.result)) :
    CountedOne s (retire i w)
      ∨ ((retire i w).csr.cycle = s.csr.cycle ∧ ∃ e : Exc, (retire i w).result = .trap (BitVec.ofNat 32 e.code)) := by
  rcases h with ⟨hc, e, he⟩ | ⟨hc, hr⟩ <;> rcases retire_cases i w with ⟨ht, h⟩ | ⟨ht, -, h⟩ <;> rw [h]
  · exact .inr ⟨hc, e, he⟩
  · rw [he] at ht; cases ht
  · rw [hr, hs] at ht; exact absurd (ht.resolve_left nofun) hw
  · obtain ⟨hcount, hres⟩ := commit_countedOne (hr.trans hs)
    exact .inl ⟨by rw [hcount, hc], hres⟩

/-- Settles O30: a fetch leaves the counter, and the instruction commits, waits or takes an exception. -/
theorem cycleCounterCountsCommits : Obligations.CycleCounterCountsCommits := by
  intro s t h
  rcases step_next h with ⟨e, v, u, -, hu, rfl⟩ | ⟨f, u, x, -, hu, -, rfl⟩ | ⟨f, u, i, w, hf, hu, hd, hx, rfl⟩ <;>
    obtain ⟨-, -, -, -, hc, -, -, -, hr, -⟩ := TranslationOnly.fields hu
  · exact .inr (.inr ⟨by rw [takeException_cycle, hc]; rfl, e, takeException_result e v u⟩)
  · exact .inr (.inr ⟨by rw [takeException_cycle, hc]; rfl, _, takeException_result _ f.raw u⟩)
  · have hcycle : (arm f u).csr.cycle = s.csr.cycle := congrArg Csrs.cycle hc
    rw [← hcycle]
    cases hi : isCsrInstr i
    · refine .inr ?_
      by_cases hw : i = .wfi
      · subst hw
        have hwait : wfiTail (arm f u) = w := Host.Outcome.next.inj hx
        rw [retire_wfi, ← hwait]
        exact .inl (wfiTail_countedOne (arm f u))
      · exact retire_counts hr hw ((exec_effect hx).cycle hi hw)
    · exact .inl ⟨f, u, i, hf, hd, hi⟩

end Sys2Proof.Machine
end

section
/-! The data access of a load or a store, said once for both: the instruction is its access, whole or in two parts, and
then the write of its destination register. -/

namespace Sys2Proof.Machine

/-! ### Which access an instruction makes -/

/-- The extension a load gives its value (41_loads_stores.md R261 to R265). -/
def extendOf : Instr → Word → Word
  | .lb _ _ _ => sextByte
  | .lh _ _ _ => sextHalf
  | _ => keep

/-- Both readings of a 3-bit register field (48_compressed.md R431). -/
theorem cReg_eq_wideReg (r : CReg) : cReg r = wideReg r := by
  revert r; decide

section
variable {i : Instr} {s : State}

/-- An instruction with a read access is a load. -/
theorem exec_load {w : Width} {ea : Word} (h : accessOf s i = some (w, .read, ea)) :
    exec i s = load w (extendOf i) (destOf i) ea s := by
  cases i with
  | lb | lh | lw | lbu | lhu | cLwsp => cases h; rfl
  | cLw rd rs1 uimm =>
    rw [accessOf, ← cReg_eq_wideReg] at h
    cases h; rfl
  | _ => cases h

/-- An instruction with a write access is a store; it writes memory and no register. -/
theorem exec_store {w : Width} {v ea : Word} (h : accessOf s i = some (w, .write v, ea)) :
    exec i s = store w v ea s ∧ destOf i = 0#5 ∧ writesMemory i = true := by
  cases i with
  | sb | sh | sw | cSwsp => cases h; exact ⟨rfl, rfl, rfl⟩
  | cSw rs2 rs1 uimm =>
    rw [accessOf, ← cReg_eq_wideReg, ← cReg_eq_wideReg] at h
    cases h; exact ⟨rfl, rfl, rfl⟩
  | _ => cases h

/-! ### The instructions without such an access -/

/-- The instruction completes and every byte of memory is as before. -/
abbrev CompletesKeepingMem (r : Host.Outcome State Fault Refusal) (s : State) : Prop :=
  ∃ t, r = .next t ∧ t.mem = s.mem

theorem setReg_completes (r : Reg) (v : Word) : CompletesKeepingMem (.next (s.setReg r v)) s :=
  ⟨_, rfl, State.setReg_mem s r v⟩

theorem exception_completes (e : Exc) (v : Word) : CompletesKeepingMem (.next (takeException e v s)) s :=
  ⟨_, rfl, trapEntry_mem _ _ _ _ s⟩

theorem branchIf_completes (taken : Bool) (off : Word) : CompletesKeepingMem (branchIf taken off s) s := by
  cases taken <;> exact ⟨_, rfl, rfl⟩

theorem jump_completes (rd : Reg) (target : Word) : CompletesKeepingMem (jump rd target s) s :=
  ⟨_, rfl, State.setReg_mem _ rd _⟩

theorem csrOp_completes (n : CsrNum) (doWrite : Bool) (new : Word → Word) (rd : Reg) :
    CompletesKeepingMem (csrOp n doWrite new rd s) s := by
  unfold csrOp
  split
  · exact exception_completes _ _
  · split
    · exact exception_completes _ _
    · refine ⟨_, rfl, (State.setReg_mem _ _ _).trans ?_⟩
      split
      · exact csrWrite_mem _ _ _
      · rfl

theorem execMret_completes : CompletesKeepingMem (execMret s) s := by
  unfold execMret
  split
  · exact ⟨_, rfl, rfl⟩
  · exact exception_completes _ _

theorem execSret_completes : CompletesKeepingMem (execSret s) s := by
  unfold execSret
  split
  · exact exception_completes _ _
  · exact ⟨_, rfl, rfl⟩

theorem execSfenceVma_completes (rs1 rs2 : Reg) : CompletesKeepingMem (execSfenceVma rs1 rs2 s) s := by
  unfold execSfenceVma
  split
  · exact exception_completes _ _
  · split
    · exact exception_completes _ _
    · exact ⟨_, rfl, rfl⟩

theorem execWfi_completes : CompletesKeepingMem (execWfi s) s := by
  refine ⟨_, rfl, ?_⟩
  rcases wfiTail_cases s with ⟨r, -, h⟩ | ⟨j, -, -, h⟩ <;> rw [h]
  · rfl
  · rw [trapEntry_mem]; rfl

/-- An address whose low two bits are 0 is even and a multiple of 4. -/
theorem wordAligned_bits {ea : Word} (h : wordAligned ea = true) : ea.getLsbD 0 = false ∧ ea.getLsbD 1 = false := by
  have h : ea.extractLsb' 0 2 = 0#2 := by simpa [wordAligned] using h
  exact ⟨by simpa using congrArg (BitVec.getLsbD · 0) h, by simpa using congrArg (BitVec.getLsbD · 1) h⟩

/-- A word at an aligned address has no 3-byte part. -/
theorem partsOf_wordAligned {ea : Word} (h : wordAligned ea = true) : partsOf ea .word = .whole :=
  partsOf_word (wordAligned_bits h).1 (wordAligned_bits h).2

theorem TranslationOnly.mem_eq {t : State} (h : TranslationOnly s t) : t.mem = s.mem := by
  rw [TranslationOnly] at h
  rw [h]

theorem loadReserved_completes (rd : Reg) (ea : Word) : CompletesKeepingMem (loadReserved rd ea s) s := by
  unfold loadReserved
  split
  · rename_i hal
    have hm := memRead_after ea .word .R s
    rcases hr : memRead ea .word .R s with ⟨v, u⟩ | ⟨e, v, u⟩ | r <;> rw [hr] at hm
    · exact ⟨_, rfl, (State.setReg_mem _ _ _).trans hm.mem_eq⟩
    · exact ⟨_, rfl, (trapEntry_mem _ _ _ _ _).trans hm.mem_eq⟩
    · have := ((memRead_refuse ea .word .R s r).1 hr).1
      rw [partsOf_wordAligned hal] at this
      cases this
  · exact exception_completes _ _

/-- An aligned SC.W is never refused (45_atomics.md R351). -/
theorem storeConditional_completes (rd : Reg) (v ea : Word) : ∃ t, storeConditional rd v ea s = .next t := by
  unfold storeConditional
  split
  · rename_i hal
    split
    · rcases hw : memWrite ea .word v { s with resv := none } with ⟨_, u⟩ | ⟨e, a, u⟩ | r
      · exact ⟨_, rfl⟩
      · exact ⟨_, rfl⟩
      · have := ((memWrite_refuse ea .word v _ r).1 hw).1
        rw [partsOf_wordAligned hal] at this
        cases this
    · exact ⟨_, rfl⟩
  · exact ⟨_, rfl⟩

/-- An AMO is never refused (45_atomics.md R351, R354). -/
theorem amo_completes (f : Word → Word → Word) (rd : Reg) (src ea : Word) : ∃ t, amo f rd src ea s = .next t := by
  unfold amo
  split
  · rcases translate_cases ea .W s with ⟨pa, u, ht, -⟩ | ⟨e, u, ht, -⟩ <;> rw [ht]
    · simp only [Res.bind]
      rcases busRead_cases .W ea pa .word u with ⟨-, hr⟩ | ⟨-, hr⟩ <;> rw [hr]
      · simp only
        rcases busWrite_cases ea pa .word (f (busAnswer u .read pa Width.word.bytes).data src)
          (busAfter u .read pa Width.word.bytes) with ⟨-, hw⟩ | ⟨-, hw⟩ <;> rw [hw] <;> exact ⟨_, rfl⟩
      · exact ⟨_, rfl⟩
    · exact ⟨_, rfl⟩
  · exact ⟨_, rfl⟩

/-- An instruction that makes no access of a load or a store and does not write memory completes and keeps memory. -/
theorem exec_keepsMem (ha : accessOf s i = none) (hw : writesMemory i = false) : CompletesKeepingMem (exec i s) s := by
  cases i with
  | lui | auipc => exact setReg_completes _ _
  | addi | slti | sltiu | xori | ori | andi | slli | srli | srai => exact setReg_completes _ _
  | add | sub | sll | slt | sltu | xor | srl | sra | or | and => exact setReg_completes _ _
  | mul | mulh | mulhsu | mulhu | div | divu | rem | remu => exact setReg_completes _ _
  | cAddi4spn | cAddi | cLi | cAddi16sp | cLui | cMv | cAdd => exact setReg_completes _ _
  | cSrli | cSrai | cAndi | cSub | cXor | cOr | cAnd | cSlli => exact setReg_completes _ _
  | fence | fenceI | cNop => exact ⟨s, rfl, rfl⟩
  | beq | bne | blt | bge | bltu | bgeu | cBeqz | cBnez => exact branchIf_completes _ _
  | jal | jalr | cJal | cJ | cJr | cJalr => exact jump_completes _ _
  | ecall | ebreak | cEbreak => exact exception_completes _ _
  | csrrw | csrrs | csrrc | csrrwi | csrrsi | csrrci => exact csrOp_completes _ _ _ _
  | mret => exact execMret_completes
  | sret => exact execSret_completes
  | sfenceVma rs1 rs2 => exact execSfenceVma_completes rs1 rs2
  | wfi => exact execWfi_completes
  | lrW => exact loadReserved_completes _ _
  | lb | lh | lw | lbu | lhu | sb | sh | sw | cLw | cSw | cLwsp | cSwsp => cases ha
  | scW | amoSwapW | amoAddW | amoXorW | amoAndW | amoOrW | amoMinW | amoMaxW | amoMinuW | amoMaxuW => cases hw

/-- An instruction that makes no access of a load or a store completes. -/
theorem exec_completes (ha : accessOf s i = none) : ∃ t, exec i s = .next t := by
  cases hw : writesMemory i
  · obtain ⟨t, ht, -⟩ := exec_keepsMem ha hw
    exact ⟨t, ht⟩
  · cases i with
    | scW => exact storeConditional_completes _ _ _
    | amoSwapW => exact amo_completes (fun _ src => src) _ _ _
    | amoAddW => exact amo_completes (fun old src => old + src) _ _ _
    | amoXorW => exact amo_completes (fun old src => old ^^^ src) _ _ _
    | amoAndW => exact amo_completes (fun old src => old &&& src) _ _ _
    | amoOrW => exact amo_completes (fun old src => old ||| src) _ _ _
    | amoMinW => exact amo_completes minSigned _ _ _
    | amoMaxW => exact amo_completes maxSigned _ _ _
    | amoMinuW => exact amo_completes minUnsigned _ _ _
    | amoMaxuW => exact amo_completes maxUnsigned _ _ _
    | sb | sh | sw | cSw | cSwsp => cases ha
    | _ => cases hw

/-- Exactly the words at page offset 0xFFD and 0xFFF have a 3-byte part (20_memory.md R108). -/
theorem partsOf_threeByte_iff (a : Word) (w : Width) :
    partsOf a w = .threeByte ↔ w = .word ∧ (pageOffset a = 0xFFD#12 ∨ pageOffset a = 0xFFF#12) := by
  refine ⟨partsOf_threeByte, ?_⟩
  rintro ⟨rfl, h | h⟩ <;> simp [partsOf, h, Width.bytes]

/-- A load or store is refused exactly where its access has a 3-byte part (20_memory.md R108). -/
theorem exec_refused_iff {w : Width} {op : BusOp} {ea : Word} (h : accessOf s i = some (w, op, ea)) (r : Refusal) :
    exec i s = .refused r ↔ partsOf ea w = .threeByte ∧ r = .threeBytePart := by
  cases op with
  | read => rw [exec_load h, load_refused]
  | write v => rw [(exec_store h).1, store_refused]

end

/-- Settles O15: the instruction makes no access of a load or a store and completes, or its access is refused by its
address. -/
theorem refusedIffThreeBytePart : Obligations.RefusedIffThreeBytePart := by
  intro i s r
  rcases ha : accessOf s i with _ | ⟨w, op, ea⟩
  · obtain ⟨t, ht⟩ := exec_completes ha
    simp [ht]
  · rw [exec_refused_iff ha, partsOf_threeByte_iff, and_comm]
    refine and_congr_right fun _ => ⟨?_, ?_⟩
    · rintro ⟨rfl, hp⟩
      exact ⟨op, ea, rfl, hp⟩
    · rintro ⟨op', ea', h, hp⟩
      cases h
      exact ⟨rfl, hp⟩

/-- Settles O17: a load only translates and reads, and an instruction without an access keeps memory. -/
theorem onlyStoresChangeMemory : Obligations.OnlyStoresChangeMemory := by
  intro i s t hw h a
  rcases ha : accessOf s i with _ | ⟨w, op, ea⟩
  · obtain ⟨t', ht, hm⟩ := exec_keepsMem ha hw
    cases ht.symm.trans h
    rw [hm]
  · cases op with
    | read =>
      rw [exec_load ha] at h
      rcases load_next h with ⟨v, u, -, hu, rfl⟩ | ⟨e, v, u, -, hu, rfl⟩
      · rw [State.setReg_mem, hu.mem_eq]
      · rw [takeException, trapEntry_mem, hu.mem_eq]
    | write v =>
      obtain ⟨-, -, hw'⟩ := exec_store ha
      rw [hw'] at hw
      cases hw

end Sys2Proof.Machine
end

section
/-! A part of a data access, for loads and stores alike: the translation, the bus call and the exception a rejected call
folds into (20_memory.md R103 to R111). -/

namespace Sys2Proof.Machine

/-! ### The bus -/

/-- What answers behind a bus of one region: the region, where it holds the whole access. -/
theorem servedBy_single (r : Region) {a n : Nat} (hn : 0 < n) :
    servedBy [r] a n = if r.base ≤ a ∧ a + n ≤ r.base + r.size then some r.kind else none := by
  unfold servedBy regionAt
  by_cases h : r.base ≤ a ∧ a < r.base + r.size
  · simp [h]
  · have : ¬ (r.base ≤ a ∧ a + n ≤ r.base + r.size) := by omega
    rw [if_neg this]
    simp [h]

/-- The bus of the reset state: `ALIGN`, then `UNMAPPED`, then `INVALID` (20_memory.md R105, log entries 9 and 12). -/
theorem busAnswer_config {s : State} (h : s.bus = Config.bus) (op : BusOp) (pa : PAddr) {n : Nat}
    (hn : n ∈ [1, 2, 4, 8]) : (busAnswer s op pa n).status =
      if pa.toNat % n ≠ 0 then .align
      else if pa.toNat < 0x80000000 ∨ 0x88000000 < pa.toNat + n then .unmapped
      else if n = 8 then .invalid else .ok := by
  have hn : n = 1 ∨ n = 2 ∨ n = 4 ∨ n = 8 := by simpa using hn
  have hserved : servedBy s.bus pa.toNat n
      = if 0x80000000 ≤ pa.toNat ∧ pa.toNat + n ≤ 0x88000000 then some (.ram false) else none := by
    rw [h]; exact servedBy_single _ (by omega)
  by_cases hin : 0x80000000 ≤ pa.toNat ∧ pa.toNat + n ≤ 0x88000000
  · rw [if_pos hin] at hserved
    have hout : ¬ (pa.toNat < 0x80000000 ∨ 0x88000000 < pa.toNat + n) := by omega
    simp only [busAnswer, hserved, ramStatus, hout, if_false, Bool.not_false, Bool.true_and, bne_iff_ne]
    rcases hn with rfl | rfl | rfl | rfl <;> simp
  · rw [if_neg hin] at hserved
    have hout : pa.toNat < 0x80000000 ∨ 0x88000000 < pa.toNat + n := by omega
    simp only [busAnswer, hserved, hout, if_true, bne_iff_ne]

/-- An oracle answers what it says and is counted (log entry 20). -/
theorem busAnswer_oracle {s : State} {pa : PAddr} {n : Nat} (h : servedBy s.bus pa.toNat n = some .oracle) (op : BusOp) :
    (busAnswer s op pa n).status = (Config.busOracle s.busCalls (match op with
        | .read => .read
        | .write v => .write (lowBytes n v)) pa n).status
      ∧ busAfter s op pa n = { s with busCalls := s.busCalls + 1 } := by
  unfold busAnswer busAfter
  rw [h]
  cases op <;> exact ⟨rfl, rfl⟩

/-- A rejected call that no oracle answers changes nothing. -/
theorem busAfter_rejected_eq {s : State} {op : BusOp} {pa : PAddr} {n : Nat}
    (hk : servedBy s.bus pa.toNat n ≠ some .oracle) (h : (busAnswer s op pa n).status ≠ .ok) : busAfter s op pa n = s := by
  have hb := busAfter_rejected h
  rw [BusOnly, busAfter_busCalls hk] at hb
  exact hb

/-! ### A part -/

/-- One part of a data access: `readPart`, or `writePart` with no value (20_memory.md R110, R111). -/
def accessPart (a : Word) (w : Width) (op : BusOp) (s : State) : Res Word :=
  match op with
  | .read => readPart a w .R s
  | .write v => (writePart a w v s).bind fun _ t => .ok 0#32 t

/-- The value of an accepted part. -/
def partData (op : BusOp) (s : State) (pa : PAddr) (n : Nat) : Word :=
  match op with
  | .read => readData s pa n
  | .write _ => 0#32

section
variable {i : Instr} {s u : State} {a ea x : Word} {w p : Width} {op : BusOp} {pa : PAddr} {e : Exc}

/-- A part whose translation raises. -/
theorem accessPart_raises (h : translate a (opKind op) s = .raise e x u) : accessPart a w op s = .raise e x u := by
  cases op with
  | read => rw [accessPart, readPart, show translate a .R s = _ from h]; rfl
  | write v => rw [accessPart, writePart, show translate a .W s = _ from h]; rfl

/-- A part that the bus accepts. -/
theorem accessPart_ok (h : translate a (opKind op) s = .ok pa u) (hs : (busAnswer u op pa w.bytes).status = .ok) :
    accessPart a w op s = .ok (partData op u pa w.bytes) (busAfter u op pa w.bytes) := by
  cases op with
  | read => exact readPart_ok h hs
  | write v =>
    have h : translate a .W s = .ok pa u := h
    have hw := (busWrite_cases a pa w v u).resolve_right fun hr => hr.1 hs
    simp only [accessPart, writePart, h, Res.bind, hw.2]
    rfl

/-- The exception of a rejected call has the cause of its status (20_memory.md R103, 60_exceptions.md R480). -/
theorem rejected_code (op : BusOp) (status : BusStatus) :
    (if status = .align then misalignedExc (opKind op) else accessExc (opKind op)).code
      = rejectCause (opKind op) status := by
  cases op <;> cases status <;> rfl

/-- A part that the bus rejects. -/
theorem accessPart_rejected (h : translate a (opKind op) s = .ok pa u)
    (hs : (busAnswer u op pa w.bytes).status ≠ .ok) : ∃ e : Exc,
      accessPart a w op s = .raise e a (busAfter u op pa w.bytes)
        ∧ e.code = rejectCause (opKind op) (busAnswer u op pa w.bytes).status := by
  refine ⟨_, ?_, rejected_code op _⟩
  cases op with
  | read => exact readPart_rejected h hs
  | write v =>
    have h : translate a .W s = .ok pa u := h
    have hw := (busWrite_cases a pa w v u).resolve_left fun hr => hs hr.1
    simp only [accessPart, writePart, h, Res.bind, hw.2]
    rfl

/-! ### An instruction is its parts and a register write -/

/-- Operations in sequence, bracketed either way. -/
theorem Res.bind_assoc {α β γ : Type} (m : Res α) (f : α → State → Res β) (g : β → State → Res γ) :
    (m.bind f).bind g = m.bind fun a t => (f a t).bind g := by
  cases m <;> rfl

@[simp] theorem Res.ok_bind {α β : Type} (d : α) (t : State) (f : α → State → Res β) : (Res.ok d t).bind f = f d t := rfl

/-- Nothing after an operation without a value. -/
theorem Res.bind_done (m : Res Unit) : (m.bind fun _ t => .ok () t) = m := by
  cases m <;> rfl

/-- The end of a load or store: `rd` gets the extended value; a store has no `rd`. -/
def writeBack (i : Instr) (d : Word) (t : State) : Res Unit := .ok () (t.setReg (destOf i) (extendOf i d))

theorem writeBack_store (h : destOf i = 0#5) (d : Word) (t : State) : writeBack i d t = .ok () t := by
  rw [writeBack, h, State.setReg_zero]

/-- A load or store inside one page. -/
theorem exec_whole (ha : accessOf s i = some (w, op, ea)) (hp : partsOf ea w = .whole) :
    exec i s = finish ((accessPart ea w op s).bind (writeBack i)) := by
  cases op with
  | read => rw [exec_load ha, load, memRead, hp]; rfl
  | write v =>
    obtain ⟨hx, hd, -⟩ := exec_store ha
    rw [hx, store, memWrite, hp]
    simp only [accessPart, Res.bind_assoc, Res.ok_bind, writeBack_store hd, Res.bind_done]

/-- The bus call of the high part, when the low part has width p (20_memory.md R111). -/
def highOp (p : Width) : BusOp → BusOp
  | .read => .read
  | .write v => .write (v >>> (8 * p.bytes))

/-- A load or store across a page boundary. -/
theorem exec_split (ha : accessOf s i = some (w, op, ea)) (hp : partsOf ea w = .split p) :
    exec i s = finish ((accessPart ea p op s).bind fun d1 t =>
      (accessPart (highPart ea p) p (highOp p op) t).bind fun d2 t => writeBack i (joinParts p d1 d2) t) := by
  cases op with
  | read =>
    rw [exec_load ha, load, memRead, hp]
    simp only [accessPart, highOp, Res.bind_assoc, Res.ok_bind, writeBack]
  | write v =>
    obtain ⟨hx, hd, -⟩ := exec_store ha
    rw [hx, store, memWrite, hp]
    simp only [accessPart, highOp, Res.bind_assoc, Res.ok_bind, writeBack_store hd, Res.bind_done]

/-! ### Exceptions -/

/-- A translation that raises names its address and leaves `pc` and memory (21_mmu_tlb.md R157, R171). -/
theorem translate_raise {kind : Access} (h : translate a kind s = .raise e x u) : x = a ∧ TranslationOnly s u := by
  rcases translate_cases a kind s with ⟨pa, t, ht, -⟩ | ⟨e', t, ht, -, hu⟩ <;> cases ht.symm.trans h
  exact ⟨rfl, hu⟩

theorem translate_ok {kind : Access} (h : translate a kind s = .ok pa u) : TranslationOnly s u := by
  have := translate_after a kind s
  rw [h] at this
  exact this

/-- An instruction whose accesses raise takes the exception at the `pc` it began with (60_exceptions.md R500). -/
theorem finish_raise {m : Res Unit} (h : m = .raise e x u) (hu : AccessOnly s u) :
    finish m = .next (trapEntry false e.code x s.pc u) := by
  obtain ⟨-, hpc, -⟩ := AccessOnly.fields hu
  rw [h, finish, takeException, hpc]

/-- An access inside one page whose translation raises. -/
theorem exec_whole_raises (ha : accessOf s i = some (w, op, ea)) (hp : partsOf ea w = .whole)
    (h : translate ea (opKind op) s = .raise e x u) : exec i s = .next (trapEntry false e.code ea s.pc u) := by
  obtain ⟨rfl, hu⟩ := translate_raise h
  rw [exec_whole ha hp, accessPart_raises h]
  exact finish_raise rfl hu.toMem

/-- An access inside one page that the bus rejects. -/
theorem exec_whole_rejected (ha : accessOf s i = some (w, op, ea)) (hp : partsOf ea w = .whole)
    (h : translate ea (opKind op) s = .ok pa u) (hs : (busAnswer u op pa w.bytes).status ≠ .ok) :
    exec i s = .next (trapEntry false (rejectCause (opKind op) (busAnswer u op pa w.bytes).status) ea s.pc
      (busAfter u op pa w.bytes)) := by
  obtain ⟨e, he, hc⟩ := accessPart_rejected h hs
  rw [exec_whole ha hp, he, ← hc]
  exact finish_raise rfl ((translate_ok h).trans (busAfter_rejected hs).toTranslation).toMem

/-- An access that does not cross a page boundary is one part (20_memory.md R107). -/
theorem partsOf_whole (h : (pageOffset a).toNat + w.bytes ≤ 4096) : partsOf a w = .whole := if_pos h

theorem storeConditional_misaligned (h : wordAligned ea = false) (rd : Reg) (v : Word) :
    storeConditional rd v ea s = .next (trapEntry false 6 ea s.pc s) := by
  unfold storeConditional
  rw [h]; rfl

theorem amo_misaligned (h : wordAligned ea = false) (f : Word → Word → Word) (rd : Reg) (src : Word) :
    amo f rd src ea s = .next (trapEntry false 6 ea s.pc s) := by
  unfold amo
  rw [h]; rfl

end

/-- Settles O49: the three answers of the bus, the faults of an access inside one page, and the alignment check of the
atomics. -/
theorem accessExceptions : Obligations.AccessExceptions := by
  refine ⟨fun s op pa n hn => ⟨fun hb => busAnswer_config hb op pa hn, fun hk => busAnswer_oracle hk op,
    busAfter_rejected_eq⟩, fun i s w op ea ha hpage => ?_, fun aq rl rd rs2 rs1 s hal => ?_⟩
  · have hp := partsOf_whole hpage
    refine ⟨fun e v u h => exec_whole_raises ha hp h, fun pa u h hs => ?_, fun pa u h hs => ?_⟩
    · rw [exec_whole_rejected ha hp h (by rw [hs]; nofun), hs]
      cases op <;> rfl
    · rcases hs with hs | hs <;> rw [exec_whole_rejected ha hp h (by rw [hs]; nofun), hs] <;> cases op <;> rfl
  · have hal : wordAligned (s.reg rs1) = false := beq_eq_false_iff_ne.2 hal
    refine ⟨?_, ?_⟩
    · show loadReserved rd (s.reg rs1) s = _
      unfold loadReserved
      rw [hal]; rfl
    · simp only [List.forall_mem_cons]
      exact ⟨storeConditional_misaligned hal _ _, amo_misaligned hal (fun _ src => src) _ _,
        amo_misaligned hal (fun old src => old + src) _ _, amo_misaligned hal (fun old src => old ^^^ src) _ _,
        amo_misaligned hal (fun old src => old &&& src) _ _, amo_misaligned hal (fun old src => old ||| src) _ _,
        amo_misaligned hal minSigned _ _, amo_misaligned hal maxSigned _ _, amo_misaligned hal minUnsigned _ _,
        amo_misaligned hal maxUnsigned _ _, nofun⟩

end Sys2Proof.Machine
end

section
/-! Accesses across a page boundary (20_memory.md R107 to R111): what each of the two parts leaves, and the statement about
both. -/

namespace Sys2Proof.Machine

section
variable {i : Instr} {s t u : State} {a ea high x : Word} {w p : Width} {op : BusOp} {pa q : PAddr} {e : Exc} {n : Nat}

/-! ### What a part leaves -/

theorem AccessOnly.bus_eq (h : AccessOnly s t) : t.bus = s.bus := by
  rw [AccessOnly] at h
  rw [h]

theorem AccessOnly.sameRegs (h : AccessOnly s t) : SameRegs s t := State.reg_congr h.fields.1

theorem TranslationOnly.sameBytes (h : TranslationOnly s t) : SameBytes s t := by
  intro b
  rw [h.mem_eq]

/-- The bytes that a part leaves in memory: as before a read, stored by a write. -/
abbrev PartDone (bus : BusMap) (op : BusOp) (pa : PAddr) (n : Nat) (s t : State) : Prop :=
  match op with
  | .read => SameBytes s t
  | .write v => Stored bus pa n v s t

/-- A little-endian write stores its bytes. -/
theorem busPut_stored (hm : s.mem.wf = true) (pa : PAddr) (n : Nat) (v : Word) :
    BytesStored pa.toNat n v s (busPut s pa n v) := by
  refine ⟨fun k hk => ?_, fun b hb => ?_⟩
  · rw [busPut_mem, Memory.read_writeLE hm, if_pos (by omega), Nat.add_sub_cancel_left]
  · rw [busPut_mem, Memory.read_writeLE_other hm v hb]

/-- An accepted bus call reads, stores, or is counted by the oracle (20_memory.md R104; log entry 20). -/
theorem busAfter_partDone (hm : s.mem.wf = true) (hs : (busAnswer s op pa n).status = .ok) :
    PartDone s.bus op pa n s (busAfter s op pa n) := by
  cases op with
  | read => exact (busAfter_read s pa n).toTranslation.sameBytes
  | write v =>
    simp only [PartDone, Stored, busAfter_write hs]
    split
    · exact fun _ => rfl
    · exact busPut_stored hm pa n v

/-- The same after the translation of the part. -/
theorem part_done (hm : s.mem.wf = true) (hu : TranslationOnly s u) (hs : (busAnswer u op pa n).status = .ok) :
    PartDone s.bus op pa n s (busAfter u op pa n) := by
  have hmem := hu.mem_eq
  have hbus := hu.toMem.bus_eq
  have hd := busAfter_partDone (hmem ▸ hm) hs
  cases op <;> simpa only [PartDone, Stored, BytesStored, SameBytesBut, SameBytes, hmem, hbus] using hd

theorem part_accessOnly {kind : Access} (h : translate a kind s = .ok pa u) (op : BusOp) (n : Nat) :
    AccessOnly s (busAfter u op pa n) :=
  (translate_ok h).toMem.trans (busAfter_accessOnly u op pa n)

theorem part_wf {kind : Access} (hm : s.mem.wf = true) (h : translate a kind s = .ok pa u) (op : BusOp) (n : Nat) :
    (busAfter u op pa n).mem.wf = true :=
  busAfter_wf op pa n ((translate_ok h).mem_eq ▸ hm)

/-- A part that is rejected keeps memory. -/
theorem rejected_translationOnly {kind : Access} (h : translate a kind s = .ok pa u)
    (hs : (busAnswer u op pa n).status ≠ .ok) : TranslationOnly s (busAfter u op pa n) :=
  (translate_ok h).trans (busAfter_rejected hs).toTranslation

/-! ### The value of a split read -/

/-- The low bits of a concatenation of 8n-bit values (20_memory.md R110: "d1 is the low-order bytes"). -/
theorem joinParts_append {k : Nat} (hk : k + k ≤ 32) (h8 : 8 * p.bytes = k) (lo hi : BitVec k) :
    joinParts p (lo.setWidth 32) (hi.setWidth 32) = (hi ++ lo).setWidth 32 := by
  unfold joinParts
  rw [h8]
  refine BitVec.eq_of_getLsbD_eq fun j hj => ?_
  simp only [BitVec.getLsbD_or, BitVec.getLsbD_shiftLeft, BitVec.getLsbD_setWidth, BitVec.getLsbD_append]
  by_cases h : j < k
  · simp [h, hj]
  · simp [h, hj, BitVec.getLsbD_of_ge lo j (by omega), show j - k < 32 by omega]

/-- A value masked to its low bytes has no higher bits (20_memory.md R101). -/
theorem lowBytes_eq_setWidth (hn : n < 4) (v : Word) : lowBytes n v = (v.setWidth (8 * n)).setWidth 32 := by
  have hpow : 2 ^ (8 * n) - 1 < 2 ^ 32 :=
    lt_of_lt_of_le (Nat.sub_lt (by positivity) one_pos) (Nat.pow_le_pow_right (by decide) (by omega))
  refine BitVec.eq_of_toNat_eq ?_
  rw [lowBytes, BitVec.toNat_and, BitVec.toNat_ofNat, Nat.mod_eq_of_lt hpow, Nat.and_two_pow_sub_one_eq_mod,
    BitVec.toNat_setWidth, BitVec.toNat_setWidth]
  exact (Nat.mod_eq_of_lt (lt_of_le_of_lt (Nat.mod_le _ _) v.isLt)).symm

/-- A value of 8n bits is the low bits of its zero-extension. -/
theorem setWidth_zeroExtended {k : Nat} (hk : k ≤ 32) (y : BitVec k) : (y.setWidth 32).setWidth k = y := by
  rw [BitVec.setWidth_setWidth_of_le y hk, BitVec.setWidth_eq]

/-- The data of a read of one byte or two has no higher bits. -/
theorem readData_narrow (hn : n = 1 ∨ n = 2) (s : State) (pa : PAddr) :
    readData s pa n = ((readData s pa n).setWidth (8 * n)).setWidth 32 := by
  obtain ⟨y, hy⟩ : ∃ y : BitVec (8 * n), readData s pa n = y.setWidth 32 := by
    unfold readData
    split
    · exact ⟨_, lowBytes_eq_setWidth (by omega) _⟩
    · rcases hn with rfl | rfl <;> exact ⟨_, rfl⟩
  rw [hy, setWidth_zeroExtended (by omega)]

/-- The value of a split read is the bytes of both parts (20_memory.md R104, R110). -/
theorem joinParts_readData (p : Width) (hp : p.bytes = 1 ∨ p.bytes = 2) (u t : State) (pa q : PAddr) :
    joinParts p (readData u pa p.bytes) (readData t q p.bytes)
      = ((readData t q p.bytes).setWidth (8 * p.bytes) ++ (readData u pa p.bytes).setWidth (8 * p.bytes)).setWidth 32 := by
  rw [← joinParts_append (by omega) rfl, ← readData_narrow hp, ← readData_narrow hp]

/-! ### The two parts in sequence -/

/-- Both parts have one access kind. -/
theorem opKind_highOp (p : Width) (op : BusOp) : opKind (highOp p op) = opKind op := by
  cases op <;> rfl

/-- The low part raises. -/
theorem exec_split_raises (ha : accessOf s i = some (w, op, ea)) (hp : partsOf ea w = .split p)
    (h : translate ea (opKind op) s = .raise e x u) : exec i s = .next (trapEntry false e.code ea s.pc u) := by
  obtain ⟨rfl, hu⟩ := translate_raise h
  rw [exec_split ha hp, accessPart_raises h]
  exact finish_raise rfl hu.toMem

/-- The bus rejects the low part. -/
theorem exec_split_rejected (ha : accessOf s i = some (w, op, ea)) (hp : partsOf ea w = .split p)
    (h : translate ea (opKind op) s = .ok pa u) (hs : (busAnswer u op pa p.bytes).status ≠ .ok) :
    exec i s = .next (trapEntry false (rejectCause (opKind op) (busAnswer u op pa p.bytes).status) ea s.pc
      (busAfter u op pa p.bytes)) := by
  obtain ⟨e, he, hc⟩ := accessPart_rejected h hs
  rw [exec_split ha hp, he, ← hc]
  exact finish_raise rfl (rejected_translationOnly h hs).toMem

section
variable (ha : accessOf s i = some (w, op, ea)) (hp : partsOf ea w = .split p)
  (h : translate ea (opKind op) s = .ok pa u) (hs : (busAnswer u op pa p.bytes).status = .ok)
include ha hp h hs

/-- After the low part, the instruction goes on with the high part. -/
theorem exec_split_low : exec i s = finish
    ((accessPart (highPart ea p) p (highOp p op) (busAfter u op pa p.bytes)).bind fun d t =>
      writeBack i (joinParts p (partData op u pa p.bytes) d) t) := by
  rw [exec_split ha hp, accessPart_ok h hs]; rfl

theorem exec_split_highRaises
    (hh : translate (highPart ea p) (opKind op) (busAfter u op pa p.bytes) = .raise e x t) :
    exec i s = .next (trapEntry false e.code (highPart ea p) s.pc t) := by
  obtain ⟨rfl, ht⟩ := translate_raise hh
  rw [← opKind_highOp p op] at hh
  rw [exec_split_low ha hp h hs, accessPart_raises hh]
  exact finish_raise rfl ((part_accessOnly h op _).trans ht.toMem)

theorem exec_split_highRejected
    (hh : translate (highPart ea p) (opKind op) (busAfter u op pa p.bytes) = .ok q t)
    (hr : (busAnswer t (highOp p op) q p.bytes).status ≠ .ok) :
    exec i s = .next (trapEntry false
      (rejectCause (opKind op) (busAnswer t (highOp p op) q p.bytes).status) (highPart ea p) s.pc
      (busAfter t (highOp p op) q p.bytes)) := by
  rw [← opKind_highOp p op] at hh ⊢
  obtain ⟨e, he, hc⟩ := accessPart_rejected hh hr
  rw [exec_split_low ha hp h hs, he, ← hc]
  exact finish_raise rfl ((part_accessOnly h op _).trans (rejected_translationOnly hh hr).toMem)

theorem exec_split_completes
    (hh : translate (highPart ea p) (opKind op) (busAfter u op pa p.bytes) = .ok q t)
    (hr : (busAnswer t (highOp p op) q p.bytes).status = .ok) :
    exec i s = .next ((busAfter t (highOp p op) q p.bytes).setReg (destOf i)
      (extendOf i (joinParts p (partData op u pa p.bytes) (partData (highOp p op) t q p.bytes)))) := by
  rw [← opKind_highOp p op] at hh
  rw [exec_split_low ha hp h hs, accessPart_ok hh hr]; rfl

end

/-! ### The statement -/

/-- Which accesses are split, and into which parts (20_memory.md R107, R108). -/
theorem partsOf_split (h : w = .half ∧ pageOffset ea = 0xFFF#12 ∧ n = 1 ∨ w = .word ∧ pageOffset ea = 0xFFE#12 ∧ n = 2) :
    ∃ p : Width, partsOf ea w = .split p ∧ p.bytes = n ∧ (w = .half → p = .byte) ∧ (w = .word → p = .half) := by
  rcases h with ⟨rfl, h, rfl⟩ | ⟨rfl, h, rfl⟩
  · exact ⟨.byte, by simp [partsOf, h, Width.bytes], rfl, fun _ => rfl, nofun⟩
  · exact ⟨.half, by simp [partsOf, h, Width.bytes], rfl, nofun, fun _ => rfl⟩

/-- A load of a word does not extend it. -/
theorem extendOf_word (h : accessOf s i = some (.word, op, ea)) : extendOf i = keep := by
  cases i with
  | lb | lh => cases h
  | _ => rfl

theorem regWritten_setReg (h : SameRegs s u) (rd : Reg) {v v' : Word} (hv : v = v') :
    RegWritten rd v' s (u.setReg rd v) := by
  subst hv
  refine ⟨?_, fun r hr => (State.reg_setReg_other u v hr).trans (h r)⟩
  rw [State.reg_setReg, if_pos rfl]

theorem splitRead_lh (rd rs1 : Reg) (imm : BitVec 12) (u t : State) (pa q : PAddr) :
    extendOf (.lh rd rs1 imm) (joinParts .byte (readData u pa 1) (readData t q 1))
      = ((readData t q 1).setWidth 8 ++ (readData u pa 1).setWidth 8).signExtend 32 :=
  (congrArg sextHalf (joinParts_readData .byte (.inl rfl) u t pa q)).trans
    (congrArg (BitVec.signExtend 32) (setWidth_zeroExtended (by decide) _))

theorem splitRead_lhu (rd rs1 : Reg) (imm : BitVec 12) (u t : State) (pa q : PAddr) :
    extendOf (.lhu rd rs1 imm) (joinParts .byte (readData u pa 1) (readData t q 1))
      = ((readData t q 1).setWidth 8 ++ (readData u pa 1).setWidth 8).setWidth 32 :=
  joinParts_readData .byte (.inl rfl) u t pa q

theorem splitRead_word (h : accessOf s i = some (.word, op, ea)) (u t : State) (pa q : PAddr) :
    extendOf i (joinParts .half (readData u pa 2) (readData t q 2))
      = (readData t q 2).setWidth 16 ++ (readData u pa 2).setWidth 16 := by
  rw [extendOf_word h]
  exact (joinParts_readData .half (.inr rfl) u t pa q).trans (BitVec.setWidth_eq _)

/-- A register write after accesses changes no control state. -/
theorem setReg_control (h : AccessOnly s u) (rd : Reg) (v : Word) :
    (u.setReg rd v).nextPc = s.nextPc ∧ (u.setReg rd v).resv = s.resv ∧ SameControl s (u.setReg rd v)
      ∧ SameTlbBus u (u.setReg rd v) := by
  obtain ⟨-, hpc, hnext, hpriv, hcsr, hresv, hasid, hres, hraw, -⟩ := h.fields
  simp [SameControl, SameTlbBus, SameTlb, hpc, hnext, hpriv, hcsr, hresv, hasid, hres, hraw]

end

/-- Settles O48, part by part: what `exec_split` says, with what each part leaves. -/
theorem splitAccesses : Obligations.SplitAccesses := by
  intro i s w op ea n hm ha hcase
  obtain ⟨p, hp, rfl, hhalf, hword⟩ := partsOf_split hcase
  dsimp only
  refine ⟨fun e x u h => ⟨exec_split_raises ha hp h, (translate_raise h).2.sameBytes⟩, fun pa u h => ⟨fun hs =>
    ⟨exec_split_rejected ha hp h hs, (rejected_translationOnly h hs).sameBytes⟩, fun hs => ?_⟩⟩
  have hlow := part_accessOnly h op p.bytes
  refine ⟨part_done hm (translate_ok h) hs, fun e x t hh => ⟨exec_split_highRaises ha hp h hs hh,
    (translate_raise hh).2.sameBytes, (hlow.trans (translate_raise hh).2.toMem).sameRegs⟩, fun q t hh =>
    ⟨fun hr => ⟨exec_split_highRejected ha hp h hs hh hr, (rejected_translationOnly hh hr).sameBytes,
      (hlow.trans (rejected_translationOnly hh hr).toMem).sameRegs⟩, fun hr => ?_⟩⟩
  have hacc := hlow.trans (part_accessOnly hh (highOp p op) p.bytes)
  have hmid := part_wf hm h op p.bytes
  obtain ⟨hnext, hresv, hctl, htlb⟩ := setReg_control hacc (destOf i)
    (extendOf i (joinParts p (partData op u pa p.bytes) (partData (highOp p op) t q p.bytes)))
  refine ⟨_, exec_split_completes ha hp h hs hh hr, hnext, hresv, hctl, htlb, ?_⟩
  have hhigh := part_done hmid (translate_ok hh) hr
  cases op with
  | read =>
    have hbytes := part_done hm (translate_ok h) hs
    refine ⟨fun b => ?_, (regWritten_setReg hacc.sameRegs (destOf i) rfl).2, ?_, ?_, ?_⟩
    · rw [State.setReg_mem]
      exact (hhigh b).trans (hbytes b)
    · rintro rd rs1 imm rfl
      cases ha
      cases hhalf rfl
      exact regWritten_setReg hacc.sameRegs rd (splitRead_lh rd rs1 imm u t pa q)
    · rintro rd rs1 imm rfl
      cases ha
      cases hhalf rfl
      exact regWritten_setReg hacc.sameRegs rd (splitRead_lhu rd rs1 imm u t pa q)
    · rintro rfl
      cases hword rfl
      exact regWritten_setReg hacc.sameRegs _ (splitRead_word ha u t pa q)
  | write v =>
    have hd := (exec_store ha).2.1
    rw [hd, State.setReg_zero]
    refine ⟨hacc.sameRegs, ?_⟩
    rwa [hlow.bus_eq] at hhigh

end Sys2Proof.Machine
end

section
/-! Reading back what a word store stored, behind one memory and in bare mode (20_memory.md R104). -/

namespace Sys2Proof.Machine

/-! ### Bare mode and one memory -/

/-- With translation off at the root every address translates to itself (21_mmu_tlb.md R148). -/
theorem translate_bare {s : State} (h : satpMode s.csr.satp = false) (a : Word) (kind : Access) :
    translate a kind s = .ok (a.setWidth Config.paBits) s := by
  unfold translate
  rw [if_pos]
  rw [bypasses, h]; rfl

theorem toNat_paddr (a : Word) : (a.setWidth Config.paBits).toNat = a.toNat := by
  rw [BitVec.toNat_setWidth, Nat.mod_eq_of_lt]
  exact lt_of_lt_of_le a.isLt (by decide)

/-- Memory serves an access of n bytes at a (20_memory.md R105, R106). -/
abbrev MemoryServes (bus : BusMap) (a n : Nat) : Prop :=
  ∃ lax, servedBy bus a n = some (.ram lax) ∧ (lax = true ∨ a % n = 0)

/-- What one memory serves, it serves in parts. -/
theorem MemoryServes.part {r : Region} {a n k m : Nat} (h : MemoryServes [r] a n) (hm : 0 < m) (hk : k + m ≤ n)
    (hdvd : m ∣ n) (hdvd' : m ∣ k) : MemoryServes [r] (a + k) m := by
  obtain ⟨lax, hs, hal⟩ := h
  refine ⟨lax, ?_, hal.imp_right fun h => ?_⟩
  · rw [servedBy_single r (by omega)] at hs
    split at hs
    · rw [servedBy_single r hm, if_pos (by omega), hs]
    · cases hs
  · exact Nat.mod_eq_zero_of_dvd (Nat.dvd_add (hdvd.trans (Nat.dvd_of_mod_eq_zero h)) hdvd')

theorem Width.bytes_cases (w : Width) : w.bytes = 1 ∨ w.bytes = 2 ∨ w.bytes = 4 := by
  cases w <;> simp [Width.bytes]

/-- Each width divides the wider ones. -/
theorem Width.bytes_dvd {w p : Width} (h : w.bytes ≤ p.bytes) : w.bytes ∣ p.bytes := by
  revert h; cases w <;> cases p <;> decide

/-- What memory answers with `OK` it serves. -/
theorem ramStatus_ok_iff (lax : Bool) (a : Nat) (w : Width) :
    ramStatus lax a w.bytes = .ok ↔ lax = true ∨ a % w.bytes = 0 := by
  unfold ramStatus
  cases lax <;> by_cases h : a % w.bytes = 0 <;> simp [h, w.bytes_cases]

/-- A part of a read of such memory. -/
theorem readPart_memory {s : State} {a : Word} {w : Width} (kind : Access) (hb : satpMode s.csr.satp = false)
    (hs : MemoryServes s.bus a.toNat w.bytes) : readPart a w kind s = .ok (s.mem.readLE a.toNat w.bytes) s := by
  obtain ⟨lax, hk, hal⟩ := hs
  have hst := (ramStatus_ok_iff lax a.toNat w).2 hal
  rw [← toNat_paddr] at hk
  have hans : (busAnswer s .read (a.setWidth Config.paBits) w.bytes).status = .ok := by
    unfold busAnswer
    rw [hk, toNat_paddr]; exact hst
  rw [readPart_ok (translate_bare hb a kind) hans, readData, hk, if_neg nofun, bytesAt_eq_readLE _ _ w.bytes_cases,
    toNat_paddr]
  unfold busAfter
  rw [hk]

/-- What accepts a call and is no oracle is memory that serves it. -/
theorem memoryServes_of_ok {s : State} {op : BusOp} {pa : PAddr} {w : Width}
    (hk : servedBy s.bus pa.toNat w.bytes ≠ some .oracle) (h : (busAnswer s op pa w.bytes).status = .ok) :
    MemoryServes s.bus pa.toNat w.bytes := by
  unfold busAnswer at h
  split at h
  · rename_i lax hr
    exact ⟨lax, hr, (ramStatus_ok_iff lax _ w).1 h⟩
  · rename_i hr; exact absurd hr hk
  · dsimp only at h
    split at h <;> cases h

/-- A part of a write that completes behind one memory. -/
theorem writePart_memory {s u : State} {a v : Word} {w : Width} {r : Region} (hbus : s.bus = [r])
    (hk : r.kind ≠ .oracle) (hb : satpMode s.csr.satp = false) (h : writePart a w v s = .ok () u) :
    MemoryServes s.bus a.toNat w.bytes ∧ u = busPut s (a.setWidth Config.paBits) w.bytes v := by
  rcases writePart_cases a w v s with ⟨pa, t, ht, hst, -, hw⟩ | ⟨e, t, hw, -⟩ <;> cases hw.symm.trans h
  cases (translate_bare hb a .W).symm.trans ht
  have hno : servedBy s.bus (a.setWidth Config.paBits).toNat w.bytes ≠ some .oracle := by
    rw [hbus, servedBy_single r (by have := w.bytes_cases; omega)]
    split
    · exact fun h => hk (Option.some.inj h)
    · exact nofun
  refine ⟨toNat_paddr a ▸ memoryServes_of_ok hno hst, ?_⟩
  rw [busAfter_write hst, if_neg hno]

/-! ### Memory that holds a value -/

/-- Little-endian bytes read as the value they are of (20_memory.md R104). -/
theorem readLE_eq {m : Memory} {b n : Nat} {v : Word}
    (h : ∀ k, k < n → m.read (b + k) = (v >>> (8 * k)).setWidth 8) :
    m.readLE b n = (v.setWidth (8 * n)).setWidth 32 := by
  induction n generalizing b v with
  | zero =>
    refine BitVec.eq_of_getLsbD_eq fun j _ => ?_
    simp [Memory.readLE]
  | succ n ih =>
    have h0 : m.read b = v.setWidth 8 := by simpa using h 0 (by omega)
    have hrest : m.readLE (b + 1) n = ((v >>> 8).setWidth (8 * n)).setWidth 32 := ih fun k hk => by
      rw [Nat.add_assoc, Nat.add_comm 1 k, h (k + 1) (by omega), ← BitVec.shiftRight_add, Nat.mul_succ, Nat.add_comm]
    rw [Memory.readLE, h0, hrest]
    refine BitVec.eq_of_getLsbD_eq fun j hj => ?_
    simp only [BitVec.getLsbD_or, BitVec.getLsbD_shiftLeft, BitVec.getLsbD_setWidth, BitVec.getLsbD_ushiftRight, hj]
    by_cases h8 : j < 8
    · simp [h8, show j < 8 * (n + 1) by omega]
    · simp [h8, show j - 8 < 32 by omega, show 8 + (j - 8) = j by omega,
        show (j - 8 < 8 * n) = (j < 8 * (n + 1)) from propext ⟨by omega, by omega⟩]

/-- Behind the memory r, in bare mode, the w bytes at b lie in one page, are served, and hold the low bytes of v. -/
structure Holds (r : Region) (u : State) (b : Word) (w : Width) (v : Word) : Prop where
  bus : u.bus = [r]
  bare : satpMode u.csr.satp = false
  page : (pageOffset b).toNat + w.bytes ≤ 4096
  serves : MemoryServes u.bus b.toNat w.bytes
  bytes : ∀ k, k < w.bytes → u.mem.read (b.toNat + k) = (v >>> (8 * k)).setWidth 8

theorem pageOffset_toNat (a : Word) : (pageOffset a).toNat = a.toNat % 4096 := by
  simp [pageOffset, BitVec.extractLsb'_toNat]

section
variable {r : Region} {s u : State} {a b v : Word} {w p : Width}

theorem Holds.readPart (h : Holds r u b w v) (kind : Access) :
    readPart b w kind u = .ok ((v.setWidth (8 * w.bytes)).setWidth 32) u := by
  rw [readPart_memory kind h.bare h.serves, readLE_eq h.bytes]

theorem Holds.memRead (h : Holds r u b w v) (kind : Access) :
    memRead b w kind u = .ok ((v.setWidth (8 * w.bytes)).setWidth 32) u := by
  rw [Machine.memRead, partsOf_whole h.page]
  exact h.readPart kind

/-- An aligned part of such bytes holds the value shifted down. -/
theorem Holds.part (h : Holds r u b p v) (w : Width) (k : Nat) (hk : k + w.bytes ≤ p.bytes) (hd : w.bytes ∣ k) :
    Holds r u (b + BitVec.ofNat 32 k) w (v >>> (8 * k)) := by
  have hw := w.bytes_cases
  have hp := p.bytes_cases
  have hpage := h.page
  have haddr : (b + BitVec.ofNat 32 k).toNat = b.toNat + k := by
    rw [pageOffset_toNat] at hpage
    rw [BitVec.toNat_add, BitVec.toNat_ofNat]
    omega
  refine ⟨h.bus, h.bare, ?_, ?_, fun j hj => ?_⟩
  · rw [pageOffset_toNat] at hpage ⊢
    omega
  · have hs := h.serves
    rw [h.bus] at hs ⊢
    rw [haddr]
    exact hs.part (by omega) hk (Width.bytes_dvd (by omega)) hd
  · rw [haddr, Nat.add_assoc, h.bytes (k + j) (by omega), ← BitVec.shiftRight_add, Nat.mul_add]

/-- After a part of a write that completes, memory holds what it wrote. -/
theorem holds_of_writePart (hm : s.mem.wf = true) (hbus : s.bus = [r]) (hk : r.kind ≠ .oracle)
    (hb : satpMode s.csr.satp = false) (hpage : (pageOffset a).toNat + w.bytes ≤ 4096)
    (h : writePart a w v s = .ok () u) : Holds r u a w v := by
  obtain ⟨hs, rfl⟩ := writePart_memory hbus hk hb h
  refine ⟨hbus, hb, hpage, hs, ?_⟩
  have := (busPut_stored hm (a.setWidth Config.paBits) w.bytes v).1
  rwa [toNat_paddr] at this

/-- A part of a write elsewhere leaves what memory holds. -/
theorem Holds.of_writePart (h : Holds r s b p v) (hm : s.mem.wf = true) (hk : r.kind ≠ .oracle) {v' : Word}
    (hw : writePart a w v' s = .ok () u) (hne : b.toNat + p.bytes ≤ a.toNat ∨ a.toNat + w.bytes ≤ b.toNat) :
    Holds r u b p v := by
  obtain ⟨-, rfl⟩ := writePart_memory h.bus hk h.bare hw
  refine ⟨h.bus, h.bare, h.page, h.serves, fun k hkp => ?_⟩
  have hother := (busPut_stored hm (a.setWidth Config.paBits) w.bytes v').2
  rw [SameBytesBut, toNat_paddr] at hother
  rw [hother _ (by omega), h.bytes k hkp]

/-- How a word is issued: inside one page, at page offset 0xFFE in halves, or not at all (20_memory.md R107, R108). -/
theorem partsOf_word_cases (a : Word) :
    (partsOf a .word = .whole ∧ (pageOffset a).toNat + 4 ≤ 4096)
      ∨ (partsOf a .word = .split .half ∧ pageOffset a = 0xFFE#12) ∨ partsOf a .word = .threeByte := by
  unfold partsOf
  split
  · rename_i h; exact .inl ⟨rfl, h⟩
  · dsimp only
    split
    · rename_i h; exact .inr (.inl ⟨rfl, h⟩)
    · exact .inr (.inr rfl)

/-- A word is its two halfwords. -/
theorem joinParts_halves (v : Word) :
    joinParts .half ((v.setWidth 16).setWidth 32) (((v >>> 16).setWidth 16).setWidth 32) = v := by
  rw [joinParts_append (k := 16) (by decide) rfl, BitVec.setWidth_eq]
  refine BitVec.eq_of_getLsbD_eq fun j hj => ?_
  simp only [BitVec.getLsbD_append, BitVec.getLsbD_setWidth, BitVec.getLsbD_ushiftRight]
  by_cases h : j < 16
  · simp [h]
  · simp [h, show j - 16 < 16 by omega, show 16 + (j - 16) = j by omega]

/-- A word store leaves both halfwords in memory and the word to be read (20_memory.md R104, R110, R111). -/
theorem holds_of_memWrite (hm : s.mem.wf = true) (hbus : s.bus = [r]) (hk : r.kind ≠ .oracle)
    (hb : satpMode s.csr.satp = false) (h : memWrite a .word v s = .ok () u) :
    Holds r u a .half v ∧ Holds r u (a + 2#32) .half (v >>> 16) ∧ Machine.memRead a .word .R u = .ok v u := by
  unfold memWrite at h
  rcases partsOf_word_cases a with ⟨hp, hpage⟩ | ⟨hp, hpage⟩ | hp <;> rw [hp] at h
  · have hw := holds_of_writePart hm hbus hk hb hpage h
    refine ⟨?_, hw.part .half 2 (by decide) (by decide), ?_⟩
    · simpa using hw.part .half 0 (by decide) (by decide)
    · simpa [Width.bytes] using hw.memRead .R
  · obtain ⟨_, t, hlow, hhigh⟩ := Res.bind_eq_ok.1 h
    have hoff : a.toNat % 4096 = 0xFFE := by rw [← pageOffset_toNat, hpage]; rfl
    have haddr : (highPart a .half).toNat = (a.toNat + 2) % 2 ^ 32 := BitVec.toNat_add a 2#32
    have hwf := writePart_wf a .half v hm
    rw [hlow] at hwf
    have hl := holds_of_writePart hm hbus hk hb (by rw [pageOffset_toNat, hoff]; decide) hlow
    have hh := holds_of_writePart hwf hl.bus hk hl.bare (by rw [pageOffset_toNat, haddr]; simp [Width.bytes]; omega) hhigh
    have hl := hl.of_writePart hwf hk hhigh (by rw [haddr]; simp only [Width.bytes]; omega)
    refine ⟨hl, hh, ?_⟩
    simp only [Machine.memRead, hp, hl.readPart, hh.readPart, Res.bind]
    exact congrArg (Res.ok · u) (joinParts_halves v)
  · cases h

end

/-- Settles O45: the halfwords that the store left are read back, and each byte is a byte of one of them. -/
theorem storeThenLoad : Obligations.StoreThenLoad := by
  intro a v s u r hm hbus hk hb h
  obtain ⟨hlow, hhigh, hword⟩ := holds_of_memWrite hm hbus hk hb h
  refine ⟨hword, hlow.memRead .R, hhigh.memRead .R, fun k hk => ?_⟩
  by_cases h2 : k < 2
  · exact (hlow.part .byte k (by simp [Width.bytes]; omega) (by simp [Width.bytes])).memRead .R
  · obtain ⟨j, rfl⟩ : ∃ j, k = 2 + j := ⟨k - 2, by omega⟩
    have := (hhigh.part .byte j (by simp [Width.bytes]; omega) (by simp [Width.bytes])).memRead .R
    rwa [← BitVec.shiftRight_add, BitVec.add_assoc, ← BitVec.ofNat_add, show 16 + 8 * j = 8 * (2 + j) by omega] at this

end Sys2Proof.Machine
end

section
/-! One set of ways: its ranks after a promotion, and the way that an insertion overwrites (21_mmu_tlb.md R152, R166,
R168). -/

namespace Sys2Proof.Machine

/-- A way after the promotion of one (21_mmu_tlb.md R152). -/
theorem promote_getElem {n : Nat} (ways : Vector TlbEntry n) (k i : Fin n) :
    (promote ways k)[i] = { ways[i] with lru := if i = k then n - 1 else ways[i].lru - 1 } := by
  simp only [promote, Fin.getElem_fin, Vector.getElem_ofFn, Fin.eta]
  split <;> rfl

/-- At most one way is the victim: of two, the lower one would be valid or of a higher rank than the other. -/
theorem IsVictim.unique {n : Nat} {ways : Vector TlbEntry n} {k k' : Fin n} (h : IsVictim ways k)
    (h' : IsVictim ways k') : k = k' := by
  rcases h with ⟨hk, hlow⟩ | ⟨hall, hmin, hlow⟩ <;> rcases h' with ⟨hk', hlow'⟩ | ⟨hall', hmin', hlow'⟩
  · exact le_antisymm (not_lt.1 fun hlt => Bool.eq_false_iff.1 hk' (hlow k' hlt))
      (not_lt.1 fun hlt => Bool.eq_false_iff.1 hk (hlow' k hlt))
  · exact absurd (hall' k) (Bool.eq_false_iff.1 hk)
  · exact absurd (hall k') (Bool.eq_false_iff.1 hk')
  · exact le_antisymm (not_lt.1 fun hlt => (hmin' k).not_gt (hlow k' hlt))
      (not_lt.1 fun hlt => (hmin k').not_gt (hlow' k hlt))

/-- An insertion overwrites the victim and promotes it (21_mmu_tlb.md R166, R168). -/
theorem fill_of_isVictim {n : Nat} [NeZero n] {ways : Vector TlbEntry n} {k : Fin n} (h : IsVictim ways k)
    (e : TlbEntry) : fill ways e = promote (ways.set k e) k := by
  rw [h.unique (victim_isVictim ways)]
  rfl

/-- Settles O44: promotion way by way, and each kind of victim is the one that an insertion overwrites. -/
theorem promotionAndEviction : Obligations.PromotionAndEviction := fun _ _ ways k i e =>
  ⟨promote_getElem ways k i, fun h => fill_of_isVictim (.inl h) e, fun h => fill_of_isVictim (.inr h) e⟩

end Sys2Proof.Machine
end

section
/-! The permission check and the page walk, each by its cases (21_mmu_tlb.md R155 to R158, R170, R171). -/

namespace Sys2Proof.Machine

/-! ### The permission check -/

/-- The check fails by the five conditions of 21_mmu_tlb.md R170. -/
theorem permFails_iff (pte : Word) (kind : Access) (eff : Priv) (mstatus : Word) :
    permFails pte kind eff mstatus = true ↔ PermissionDenied pte kind eff mstatus := by
  have hallowed : accessAllowed pte kind (statusMXR mstatus) = false ↔
      (kind = .R ∧ pteR pte = false ∧ (statusMXR mstatus = false ∨ pteX pte = false))
        ∨ (kind = .W ∧ pteW pte = false) ∨ (kind = .X ∧ pteX pte = false) := by
    cases kind with
    | R => simp only [accessAllowed, Bool.or_eq_false_iff, Bool.and_eq_false_iff]; simp
    | W => simp [accessAllowed]
    | X => simp [accessAllowed]
  simp only [permFails, PermissionDenied, Bool.or_eq_true, Bool.and_eq_true, Bool.not_eq_true', beq_iff_eq, hallowed,
    or_assoc, and_assoc]

/-- A failed check is the page fault of the access (21_mmu_tlb.md R171). -/
theorem checkedAddr_denied {e : TlbEntry} {kind : Access} {eff : Priv} {s : State}
    (h : PermissionDenied e.pte kind eff s.csr.mstatus) (va : Word) :
    checkedAddr e va kind eff s = .raise (pageExc kind) va s :=
  if_pos ((permFails_iff ..).2 h)

theorem checkedAddr_granted {e : TlbEntry} {kind : Access} {eff : Priv} {s : State}
    (h : ¬ PermissionDenied e.pte kind eff s.csr.mstatus) (va : Word) :
    checkedAddr e va kind eff s = .ok (physAddr e va) s :=
  if_neg fun hp => h ((permFails_iff ..).1 hp)

/-- Settles O39: both outcomes of the check, the page fault of each access kind written out. -/
theorem permissionCheck : Obligations.PermissionCheck := fun e va kind eff s =>
  ⟨fun h => by rw [checkedAddr_denied h]; cases kind <;> rfl, fun h => checkedAddr_granted h va⟩

/-! ### The walk -/

theorem pteInvalid_iff (p : Word) : pteInvalid p = true ↔ pteV p = false ∨ (pteR p = false ∧ pteW p = true) := by
  simp [pteInvalid]

/-- A number with w more bits below it. -/
theorem append_eq_ofNat {v w : Nat} (x : BitVec v) (y : BitVec w) :
    x ++ y = BitVec.ofNat (v + w) (x.toNat * 2 ^ w + y.toNat) := by
  apply BitVec.eq_of_toNat_eq
  rw [BitVec.toNat_append, ← Nat.shiftLeft_add_eq_or_of_lt y.isLt, Nat.shiftLeft_eq, BitVec.toNat_ofNat,
    Nat.mod_eq_of_lt]
  calc x.toNat * 2 ^ w + y.toNat < (x.toNat + 1) * 2 ^ w := by have := y.isLt; rw [Nat.add_mul]; omega
    _ ≤ 2 ^ (v + w) := by rw [Nat.pow_add]; exact Nat.mul_le_mul_right _ x.isLt

/-- The address of a page-table entry as a number (21_mmu_tlb.md R155). -/
theorem pteAddr_eq_ofNat (ppn : BitVec 22) (index : BitVec 10) :
    pteAddr ppn index = BitVec.ofNat Config.paBits (ppn.toNat * 4096 + index.toNat * 4) := by
  apply BitVec.eq_of_toNat_eq
  simp only [pteAddr, append_eq_ofNat, BitVec.toNat_ofNat, Config.paBits]
  omega

/-- A page-table read by its bus answer (21_mmu_tlb.md R156). -/
theorem readPte_eq (pa : PAddr) (kind : Access) (va : Word) (s : State) : readPte pa kind va s =
    if (busAnswer s .read pa 4).status = .ok then .ok (readData s pa 4) (busAfter s .read pa 4)
    else .raise (accessExc kind) va (busAfter s .read pa 4) := by
  rcases readPte_cases pa kind va s with ⟨hok, h⟩ | ⟨hbad, h⟩
  · rw [h, if_pos hok, busAnswer_data hok (by simp)]
  · rw [h, if_neg hbad]

/-- The level-0 half of the walk by its bus answer and its entry (21_mmu_tlb.md R155). -/
theorem walkLevel0_eq (ppn : BitVec 22) (va : Word) (kind : Access) (s : State) :
    let a := pteAddr ppn (vpn0 va)
    let t := busAfter s .read a 4
    walkLevel0 ppn va kind s =
      if (busAnswer s .read a 4).status = .ok then
        if pteInvalid (readData s a 4) then .raise (pageExc kind) va t else .ok (readData s a 4, .basePage) t
      else .raise (accessExc kind) va t := by
  simp only [walkLevel0, readPte_eq]
  split <;> rfl

/-- The walk by the bus answer and the entry at the root (21_mmu_tlb.md R155, R158). -/
theorem walk_eq (va : Word) (kind : Access) (s : State) :
    let a := pteAddr (satpPpn s.csr.satp) (vpn1 va)
    let p := readData s a 4
    let t := busAfter s .read a 4
    walk va kind s =
      if (busAnswer s .read a 4).status = .ok then
        if pteInvalid p then .raise (pageExc kind) va t
        else if pteR p || pteX p then if ptePpn0 p = 0#10 then .ok (p, .superPage) t else .raise (pageExc kind) va t
        else walkLevel0 (ptePpn p) va kind t
      else .raise (accessExc kind) va t := by
  simp only [walk, readPte_eq]
  split <;> rfl

/-- A completed walk changes nothing but by its bus calls (21_mmu_tlb.md R157). -/
theorem walk_ok_busOnly {va : Word} {kind : Access} {s w : State} {r : Word × PageLevel}
    (h : walk va kind s = .ok r w) : BusOnly s w := by
  obtain ⟨w', hw, ⟨_, _, h'⟩ | h' | h'⟩ := walk_cases va kind s <;> rw [h] at h' <;> cases h'
  exact hw

/-- Settles O40: the walk's branches, each bus read with the entry it brings. -/
theorem walkByCases : Obligations.WalkByCases := by
  intro va kind s
  simp only [← pteAddr_eq_ofNat, ← pteInvalid_iff, ne_eq, Decidable.not_not]
  have hroot := walk_eq va kind s
  dsimp only at hroot
  have leaf : ∀ p, (pteR p || pteX p) = true ↔ pteR p = true ∨ pteX p = true := fun p => by simp
  refine ⟨?_, ?_, ?_, ?_, ?_, ?_, ?_, busAfter_read _ _ _, busAfter_read _ _ _⟩
  · intro hbad; rw [hroot, if_neg hbad]
  · intro hok hinv; rw [hroot, if_pos hok, if_pos hinv]
  · intro hok hinv hleaf haligned
    rw [hroot, if_pos hok, if_neg hinv, if_pos ((leaf _).2 hleaf), if_pos haligned]
  · intro hok hinv hleaf hmis
    rw [hroot, if_pos hok, if_neg hinv, if_pos ((leaf _).2 hleaf), if_neg hmis]
  all_goals intro hok hinv hleaf; rw [hroot, if_pos hok, if_neg hinv, if_neg (hleaf ∘ (leaf _).1), walkLevel0_eq]
  · intro hbad0; rw [if_neg hbad0]
  · intro hok0 hinv0; rw [if_pos hok0, if_pos hinv0]
  · intro hok0 hinv0; rw [if_pos hok0, if_neg hinv0]

end Sys2Proof.Machine
end

section
/-! Translation by its cases: bypassed, served by an entry of a table, or walked (21_mmu_tlb.md R146); and what each of
them leaves in the tables. -/

namespace Sys2Proof.Machine

section
variable {va : Word} {kind : Access} {s t u : State} {e : TlbEntry}

/-! ### Lookups -/

@[simp] theorem Res.bind_ok {α β : Type} (a : α) (s : State) (f : α → State → Res β) :
    (Res.ok a s).bind f = f a s := rfl


theorem superMatch_iff (asid : BitVec 9) (va : Word) (e : TlbEntry) : superMatch asid va e = true ↔
    e.valid = true ∧ e.vpn.extractLsb' 10 10 = vpn1 va ∧ (e.global = true ∨ e.asid = asid) := by
  simp [superMatch, and_assoc]

theorem baseMatch_iff (va : Word) (e : TlbEntry) : baseMatch va e = true ↔ e.valid = true ∧ e.vpn = vpn va := by
  simp [baseMatch]

/-- The set that an address selects: va[31:12] modulo the number of sets (21_mmu_tlb.md R151). -/
theorem setIndex_val (sets : Nat) [NeZero sets] (va : Word) : (setIndex sets va).val = va.toNat / 4096 % sets := by
  have hlt : va.toNat / 4096 < 2 ^ 20 := by have := va.isLt; omega
  show (vpn va).toNat % sets = _
  rw [vpn, BitVec.extractLsb'_toNat, Nat.shiftRight_eq_div_pow, Nat.mod_eq_of_lt hlt]

theorem hitSuper_eq_none :
    hitSuper va s = none ↔ ∀ k : Fin Config.stlbEntries, superMatch s.asidCache va s.stlb[k] = false := by
  rw [← firstWay_eq_none]
  unfold hitSuper
  split <;> simp_all

/-- A superpage hit is promoted (21_mmu_tlb.md R152). -/
theorem hitSuper_eq_some_iff : hitSuper va s = some (e, u) ↔ ∃ k, firstWay s.stlb (superMatch s.asidCache va) = some k
    ∧ s.stlb[k] = e ∧ { s with stlb := promote s.stlb k } = u := by
  unfold hitSuper
  split <;> simp_all

theorem hitSet_eq_none {sets ways : Nat} [NeZero sets] {t : SetTlb sets ways} :
    hitSet t va = none ↔ ∀ k : Fin ways, baseMatch va t[setIndex sets va][k] = false := by
  rw [← firstWay_eq_none]
  unfold hitSet lookupSet
  split <;> simp_all

/-- A hit in a set-associative table is promoted in its set (21_mmu_tlb.md R152). -/
theorem hitSet_eq_some_iff {sets ways : Nat} [NeZero sets] {t t' : SetTlb sets ways} :
    hitSet t va = some (e, t') ↔ ∃ k, firstWay t[setIndex sets va] (baseMatch va) = some k
      ∧ t[setIndex sets va][k] = e ∧ updateSet t va (fun w => promote w k) = t' := by
  unfold hitSet lookupSet
  split <;> simp_all

/-- A fetch looks in the ITLB. -/
theorem hitBase_fetch (va : Word) (s : State) :
    hitBase va .X s = (hitSet s.itlb va).map fun (e, t) => (e, { s with itlb := t }) := rfl

/-- A load or store looks in the DTLB. -/
theorem hitBase_data (hk : kind ≠ .X) (va : Word) (s : State) :
    hitBase va kind s = (hitSet s.dtlb va).map fun (e, t) => (e, { s with dtlb := t }) := by
  cases kind with
  | X => exact absurd rfl hk
  | R | W => rfl

/-- A hit in the table of the access kind (21_mmu_tlb.md R146). -/
theorem hitBase_eq_some_iff : hitBase va kind s = some (e, u) ↔
    (kind = .X ∧ ∃ t, hitSet s.itlb va = some (e, t) ∧ { s with itlb := t } = u)
      ∨ (kind ≠ .X ∧ ∃ t, hitSet s.dtlb va = some (e, t) ∧ { s with dtlb := t } = u) := by
  by_cases hk : kind = .X
  · subst hk; simp [hitBase_fetch]
  · simp [hitBase_data hk, hk]

/-! ### The three cases -/

/-- The entry that serves an address, and the state with it promoted: the superpage TLB comes first
(21_mmu_tlb.md R146). -/
abbrev Served (va : Word) (kind : Access) (s : State) (e : TlbEntry) (u : State) : Prop :=
  hitSuper va s = some (e, u) ∨ hitSuper va s = none ∧ hitBase va kind s = some (e, u)

/-- No entry serves an address. -/
abbrev Missed (va : Word) (kind : Access) (s : State) : Prop := hitSuper va s = none ∧ hitBase va kind s = none

theorem served_or_missed (va : Word) (kind : Access) (s : State) :
    (∃ e u, Served va kind s e u) ∨ Missed va kind s := by
  rcases hs : hitSuper va s with _ | ⟨e, u⟩
  · rcases hb : hitBase va kind s with _ | ⟨e, u⟩
    · exact .inr ⟨hs, hb⟩
    · exact .inl ⟨e, u, .inr ⟨hs, hb⟩⟩
  · exact .inl ⟨e, u, .inl hs⟩

theorem bypasses_iff : bypasses kind s = true ↔ satpMode s.csr.satp = false ∨ effectivePriv kind s = .M := by
  simp [bypasses]

theorem translate_bypassed (hb : bypasses kind s = true) (va : Word) :
    translate va kind s = .ok (va.setWidth Config.paBits) s := if_pos hb

theorem translate_served (hb : bypasses kind s = false) (h : Served va kind s e u) :
    translate va kind s = checkedAddr e va kind (effectivePriv kind s) u := by
  rcases h with h | ⟨hs, h⟩
  · simp [translate, hb, h]
  · simp [translate, hb, hs, h]

theorem translate_missed (hb : bypasses kind s = false) (h : Missed va kind s) :
    translate va kind s = (walk va kind s).bind fun r w =>
      checkedAddr (newEntry va r.1 r.2 w.asidCache) va kind (effectivePriv kind s) (insertEntry va r.1 r.2 kind w) := by
  obtain ⟨hs, h⟩ := h
  simp [translate, hb, hs, h]

/-! ### What lookups and insertions leave alone -/

/-- The state that lookups and insertions may leave: s but for the three tables. -/
abbrev TablesOnly (s t : State) : Prop := t = { s with itlb := t.itlb, dtlb := t.dtlb, stlb := t.stlb }

theorem Served.tablesOnly (h : Served va kind s e u) : TablesOnly s u := by
  rcases h with h | ⟨-, h⟩
  · obtain ⟨k, -, -, rfl⟩ := hitSuper_eq_some_iff.1 h
    rfl
  · obtain ⟨-, t, -, rfl⟩ | ⟨-, t, -, rfl⟩ := hitBase_eq_some_iff.1 h <;> rfl

theorem insertEntry_tablesOnly (va pte : Word) (level : PageLevel) (kind : Access) (s : State) :
    TablesOnly s (insertEntry va pte level kind s) := by
  cases level <;> cases kind <;> rfl

@[simp] theorem insertEntry_csr (va pte : Word) (level : PageLevel) (kind : Access) (s : State) :
    (insertEntry va pte level kind s).csr = s.csr := by
  cases level <;> cases kind <;> rfl

@[simp] theorem insertEntry_busCalls (va pte : Word) (level : PageLevel) (kind : Access) (s : State) :
    (insertEntry va pte level kind s).busCalls = s.busCalls := by
  cases level <;> cases kind <;> rfl

theorem TablesOnly.fields (h : TablesOnly s t) : t.priv = s.priv ∧ t.csr = s.csr ∧ t.asidCache = s.asidCache
    ∧ t.mem = s.mem ∧ t.bus = s.bus ∧ t.busCalls = s.busCalls := by
  rw [TablesOnly] at h; rw [h]; simp

theorem TablesOnly.csr_eq (h : TablesOnly s t) : t.csr = s.csr := by
  rw [TablesOnly] at h; rw [h]

/-- The set that an address selects is rewritten, the others are as before. -/
theorem updateSet_getElem {sets ways : Nat} [NeZero sets] (t : SetTlb sets ways) (va : Word)
    (f : Vector TlbEntry ways → Vector TlbEntry ways) (i : Fin sets) :
    (updateSet t va f)[i] = if i = setIndex sets va then f t[setIndex sets va] else t[i] := by
  unfold updateSet
  by_cases hi : i = setIndex sets va
  · subst hi; simp
  · have hne : (setIndex sets va).val ≠ i.val := fun h => hi (Fin.ext h.symm)
    simp [Vector.getElem_set_ne, hi, hne]

/-! ### What a lookup does not look at -/

/-- A state at another privilege, with other CSR words, before another memory and bus, with another count of calls. -/
def State.inContext (s : State) (p : Priv) (c : Csrs) (m : Memory) (b : BusMap) (n : Nat) : State :=
  { s with priv := p, csr := c, mem := m, bus := b, busCalls := n }

theorem hitSuper_inContext (va : Word) (s : State) (p : Priv) (c : Csrs) (m : Memory) (b : BusMap) (n : Nat) :
    hitSuper va (s.inContext p c m b n) = (hitSuper va s).map fun (e, u) => (e, u.inContext p c m b n) := by
  unfold hitSuper State.inContext
  dsimp only
  split <;> rfl

theorem hitBase_inContext (va : Word) (kind : Access) (s : State) (p : Priv) (c : Csrs) (m : Memory) (b : BusMap)
    (n : Nat) :
    hitBase va kind (s.inContext p c m b n) = (hitBase va kind s).map fun (e, u) => (e, u.inContext p c m b n) := by
  cases kind <;> simp only [hitBase, Option.map_map] <;> rfl

theorem Served.inContext (h : Served va kind s e u) (p : Priv) (c : Csrs) (m : Memory) (b : BusMap) (n : Nat) :
    Served va kind (s.inContext p c m b n) e (u.inContext p c m b n) := by
  rw [Served, hitSuper_inContext, hitBase_inContext]
  rcases h with h | ⟨hs, h⟩
  · exact .inl (by rw [h]; rfl)
  · exact .inr ⟨by rw [hs]; rfl, by rw [h]; rfl⟩

theorem Missed.inContext (h : Missed va kind s) (p : Priv) (c : Csrs) (m : Memory) (b : BusMap) (n : Nat) :
    Missed va kind (s.inContext p c m b n) := by
  obtain ⟨hs, h⟩ := h
  rw [Missed, hitSuper_inContext, hitBase_inContext, hs, h]
  exact ⟨rfl, rfl⟩

end

@[simp] theorem newEntry_pte (va pte : Word) (level : PageLevel) (asid : BitVec 9) :
    (newEntry va pte level asid).pte = pte := rfl

/-! ### The statements about a hit and about a walk -/

/-- The physical address of a walked base page (21_mmu_tlb.md R160, R162). -/
theorem physAddr_newEntry_basePage (va pte : Word) (asid : BitVec 9) : physAddr (newEntry va pte .basePage asid) va =
    BitVec.ofNat Config.paBits ((ptePpn pte).toNat * 2 ^ 12 + va.toNat % 2 ^ 12) := by
  simp only [physAddr, newEntry, append_eq_ofNat, pageOffset, BitVec.extractLsb'_toNat, Nat.shiftRight_zero]

/-- The physical address of a walked superpage (21_mmu_tlb.md R160, R162). -/
theorem physAddr_newEntry_superPage (va pte : Word) (asid : BitVec 9) : physAddr (newEntry va pte .superPage asid) va =
    BitVec.ofNat Config.paBits ((ptePpn pte).toNat / 2 ^ 10 * 2 ^ 22 + va.toNat % 2 ^ 22) := by
  have hlt : (ptePpn pte).toNat / 2 ^ 10 < 2 ^ 12 := by have := (ptePpn pte).isLt; omega
  simp only [physAddr, newEntry, append_eq_ofNat, BitVec.extractLsb'_toNat, Nat.shiftRight_eq_div_pow,
    Nat.mod_eq_of_lt hlt, pow_zero, Nat.div_one]

/-- A table after an insertion: the set that the address selects has the entry, the others are as before
(21_mmu_tlb.md R165, R166). -/
theorem updateSet_fill {sets ways : Nat} [NeZero sets] [NeZero ways] (t : SetTlb sets ways) (va : Word) (e : TlbEntry) :
    Inserted t[setIndex sets va] (updateSet t va fun w => fill w e)[setIndex sets va] e
      ∧ ∀ i : Fin sets, i ≠ setIndex sets va → (updateSet t va fun w => fill w e)[i] = t[i] :=
  ⟨by rw [updateSet_getElem, if_pos rfl]; exact fill_inserted _ e, fun i hi => by rw [updateSet_getElem, if_neg hi]⟩

/-- Settles O41: a miss is walked, its entry inserted and then checked; a raise of the walk ends the translation. -/
theorem translationAfterWalk : Obligations.TranslationAfterWalk := by
  refine ⟨fun va kind s w pte level hb hs hh hw => ?_, fun va kind s w e v hb hs hh hw => ?_⟩
  · have htrans := translate_missed hb ⟨hs, hh⟩
    have hwOnly := walk_ok_busOnly hw
    have hcsr : w.csr = s.csr := by rw [hwOnly]
    rw [hw, Res.bind_ok] at htrans
    refine ⟨insertEntry va pte level kind w,
      hwOnly.toTranslation.trans (insertEntry_translationOnly va pte level kind w), by simp,
      fun hp => ?_, fun hp => ?_, ?_⟩
    · rw [htrans, checkedAddr_granted (by simpa [hcsr] using hp)]
      cases level with
      | basePage => rw [physAddr_newEntry_basePage]
      | superPage => rw [physAddr_newEntry_superPage]
    · rw [htrans, checkedAddr_denied (by simpa [hcsr] using hp)]
    · rw [hwOnly]
      cases level with
      | superPage => exact ⟨fill_inserted _ _, rfl, rfl⟩
      | basePage =>
        cases kind with
        | X => exact ⟨(updateSet_fill s.itlb va _).1, (updateSet_fill s.itlb va _).2, rfl, rfl⟩
        | R | W => exact ⟨(updateSet_fill s.dtlb va _).1, (updateSet_fill s.dtlb va _).2, rfl, rfl⟩
  · rw [translate_missed hb ⟨hs, hh⟩, hw]; rfl

/-- The lookup in one set-associative table by its ways (21_mmu_tlb.md R151, R152). -/
theorem hitSet_by_ways {sets ways : Nat} [NeZero sets] (t : SetTlb sets ways) (va : Word) :
    let i := setIndex sets va
    ((∀ k : Fin ways, ¬ baseMatch va t[i][k] = true) → hitSet t va = none)
      ∧ ∀ k : Fin ways, baseMatch va t[i][k] = true → (∀ j < k, ¬ baseMatch va t[i][j] = true) →
        hitSet t va = some (t[i][k], t.set i (promote t[i] k)) := by
  simp only [Bool.not_eq_true]
  exact ⟨hitSet_eq_none.2, fun k hk hlow => hitSet_eq_some_iff.2 ⟨k, firstWay_eq_some.2 ⟨hk, hlow⟩, rfl, rfl⟩⟩

/-- Settles O43: the three lookups by their ways; and what serves one state serves it before another memory and bus. -/
theorem cachedTranslationIgnoresMemory : Obligations.CachedTranslationIgnoresMemory := by
  refine ⟨fun va s => ?_, fun va kind s u e m b hb h => ?_⟩
  · have hsuper := fun e => superMatch_iff s.asidCache va e
    have hbase := baseMatch_iff va
    simp only [vpn1, vpn] at hsuper hbase
    simp only [← hsuper, ← hbase]
    obtain ⟨hinone, hisome⟩ := hitSet_by_ways s.itlb va
    obtain ⟨hdnone, hdsome⟩ := hitSet_by_ways s.dtlb va
    refine ⟨fun h => ?_, fun k hk hlow => ?_, setIndex_val _ va, setIndex_val _ va, fun h => ?_, fun k hk hlow => ?_,
      fun kind hx => ⟨fun h => ?_, fun k hk hlow => ?_⟩⟩
    · exact hitSuper_eq_none.2 fun k => Bool.not_eq_true _ ▸ h k
    · exact hitSuper_eq_some_iff.2 ⟨k, firstWay_eq_some.2 ⟨hk, fun j hj => Bool.not_eq_true _ ▸ hlow j hj⟩, rfl, rfl⟩
    · rw [hitBase_fetch, hinone h]; rfl
    · rw [hitBase_fetch, hisome k hk hlow]; rfl
    · rw [hitBase_data hx, hdnone h]; rfl
    · rw [hitBase_data hx, hdsome k hk hlow]; rfl
  · obtain ⟨hpriv, hcsr, -, -, -, hcalls⟩ := (Served.tablesOnly h).fields
    have hserved := Served.inContext h u.priv u.csr m b u.busCalls
    rw [show s.inContext u.priv u.csr m b u.busCalls = { s with mem := m, bus := b } by
      rw [hpriv, hcsr, hcalls]; rfl] at hserved
    have htrans : translate va kind { s with mem := m, bus := b }
        = checkedAddr e va kind (effectivePriv kind s) { u with mem := m, bus := b } := translate_served hb hserved
    rw [htrans, ← hcsr]
    exact ⟨fun hp => checkedAddr_granted (s := { u with mem := m, bus := b }) hp va,
      fun hp => checkedAddr_denied (s := { u with mem := m, bus := b }) hp va⟩

end Sys2Proof.Machine
end

section
/-! Two translations that end alike: what of the state an answer depends on (21_mmu_tlb.md R147, R181; 60_exceptions.md
R522). -/

namespace Sys2Proof.Machine

section
variable {va : Word} {kind : Access} {s t u w : State} {e e' : TlbEntry}

/-! ### Operations that end alike -/

/-- Two operations complete with the same value or raise the same exception, in related states. -/
def Res.Agree {α : Type} (R : State → State → Prop) : Res α → Res α → Prop
  | .ok a s, .ok b t => a = b ∧ R s t
  | .raise e v s, .raise e' v' t => e = e' ∧ v = v' ∧ R s t
  | .refuse r, .refuse r' => r = r'
  | _, _ => False

theorem Res.Agree.bind {α β : Type} {R Q : State → State → Prop} {m m' : Res α} {f f' : α → State → Res β}
    (h : m.Agree R m') (hR : ∀ s t, R s t → Q s t) (hf : ∀ a s t, R s t → (f a s).Agree Q (f' a t)) :
    (m.bind f).Agree Q (m'.bind f') := by
  cases m <;> cases m' <;> simp only [Res.Agree] at h
  case ok.ok => obtain ⟨rfl, h⟩ := h; exact hf _ _ _ h
  case raise.raise => obtain ⟨rfl, rfl, h⟩ := h; exact ⟨rfl, rfl, hR _ _ h⟩
  case refuse.refuse => exact h

theorem Res.Agree.sameAnswer {R : State → State → Prop} {m m' : Res PAddr} (h : m.Agree R m') : SameAnswer m m' := by
  cases m <;> cases m' <;> simp only [Res.Agree] at h
  case ok.ok => obtain ⟨rfl, -⟩ := h; exact ⟨by simp, by simp⟩
  case raise.raise => obtain ⟨rfl, rfl, -⟩ := h; exact ⟨by simp, by simp⟩
  case refuse.refuse => exact ⟨by simp, by simp⟩

theorem SameAnswer.symm {r q : Res PAddr} (h : SameAnswer r q) : SameAnswer q r :=
  ⟨fun pa => (h.1 pa).symm, fun e v => (h.2 e v).symm⟩

theorem SameAnswer.trans {r q p : Res PAddr} (h : SameAnswer r q) (h' : SameAnswer q p) : SameAnswer r p :=
  ⟨fun pa => (h.1 pa).trans (h'.1 pa), fun e v => (h.2 e v).trans (h'.2 e v)⟩

/-! ### The walk looks at `satp`, memory and the bus only -/

/-- Two states are s and t after equally many calls of an oracle. -/
abbrev CountedAlike (s t u w : State) : Prop := ∃ n, u = { s with busCalls := n } ∧ w = { t with busCalls := n }

theorem busAfter_read_eq (s : State) (pa : PAddr) (n : Nat) : busAfter s .read pa n =
    { s with busCalls := if servedBy s.bus pa.toNat n = some .oracle then s.busCalls + 1 else s.busCalls } := by
  unfold busAfter
  split <;> simp_all

theorem readPte_agree (hmem : t.mem = s.mem) (hbus : t.bus = s.bus) (h : CountedAlike s t u w) (pa : PAddr)
    (kind : Access) (va : Word) : (readPte pa kind va u).Agree (CountedAlike s t) (readPte pa kind va w) := by
  obtain ⟨n, rfl, rfl⟩ := h
  have hans : busAnswer { t with busCalls := n } .read pa 4 = busAnswer { s with busCalls := n } .read pa 4 := by
    simp only [busAnswer, hmem, hbus]
  have hafter : CountedAlike s t (busAfter { s with busCalls := n } .read pa 4)
      (busAfter { t with busCalls := n } .read pa 4) := by
    simp only [busAfter_read_eq]; exact ⟨_, rfl, by simp [hbus]⟩
  simp only [readPte, hans]
  split
  · exact ⟨rfl, hafter⟩
  · exact ⟨rfl, rfl, hafter⟩

/-- Walks for one address from the same `satp` in the same memory and bus end alike. -/
theorem walk_agree (hsatp : t.csr.satp = s.csr.satp) (hmem : t.mem = s.mem) (hbus : t.bus = s.bus)
    (hcalls : t.busCalls = s.busCalls) (va : Word) (kind : Access) :
    (walk va kind s).Agree (CountedAlike s t) (walk va kind t) := by
  have hread := fun {u w} (h : CountedAlike s t u w) pa => readPte_agree hmem hbus h pa kind va
  unfold walk
  rw [hsatp]
  refine (hread ⟨s.busCalls, rfl, by rw [← hcalls]⟩ _).bind (fun _ _ h => h) fun p u w h => ?_
  split
  · exact ⟨rfl, rfl, h⟩
  · split
    · split
      · exact ⟨rfl, h⟩
      · exact ⟨rfl, rfl, h⟩
    · refine (hread h _).bind (fun _ _ h => h) fun p u w h => ?_
      split
      · exact ⟨rfl, rfl, h⟩
      · exact ⟨rfl, h⟩

/-! ### The translation looks at no more, but for the effective privilege and two bits of `mstatus` -/

/-- The states agree in all that a translation looks at outside the tables (21_mmu_tlb.md R147, R155, R170). -/
structure SameContext (kind : Access) (s t : State) : Prop where
  satp : t.csr.satp = s.csr.satp
  priv : effectivePriv kind t = effectivePriv kind s
  sum : statusSUM t.csr.mstatus = statusSUM s.csr.mstatus
  mxr : statusMXR t.csr.mstatus = statusMXR s.csr.mstatus
  mem : t.mem = s.mem
  bus : t.bus = s.bus
  busCalls : t.busCalls = s.busCalls

theorem SameContext.bypasses (h : SameContext kind s t) : bypasses kind t = bypasses kind s := by
  unfold Machine.bypasses; rw [h.satp, h.priv]

theorem TablesOnly.sameContext (h : TablesOnly s t) (kind : Access) : SameContext kind s t := by
  obtain ⟨hpriv, hcsr, -, hmem, hbus, hcalls⟩ := h.fields
  exact ⟨by rw [hcsr], by unfold effectivePriv; rw [hcsr, hpriv], by rw [hcsr], by rw [hcsr], hmem, hbus, hcalls⟩

/-- Checks of entries with one page-table entry and one address end alike. -/
theorem SameContext.checkedAddr (h : SameContext kind s t) (hu : u.csr = s.csr) (hw : w.csr = t.csr)
    (hpte : e'.pte = e.pte) (haddr : physAddr e' va = physAddr e va) :
    (checkedAddr e va kind (effectivePriv kind s) u).Agree (fun _ _ => True)
      (checkedAddr e' va kind (effectivePriv kind t) w) := by
  have hperm : permFails e'.pte kind (effectivePriv kind t) w.csr.mstatus
      = permFails e.pte kind (effectivePriv kind s) u.csr.mstatus := by
    rw [hu, hw, hpte, h.priv]; unfold permFails; rw [h.sum, h.mxr]
  unfold Machine.checkedAddr
  rw [hperm, haddr]
  split
  · exact ⟨rfl, rfl, trivial⟩
  · exact ⟨rfl, trivial⟩

theorem SameContext.bypassed (h : SameContext kind s t) (hb : Machine.bypasses kind s = true) (va : Word) :
    SameAnswer (translate va kind s) (translate va kind t) := by
  rw [translate_bypassed hb, translate_bypassed (h.bypasses.trans hb)]
  exact ⟨by simp, by simp⟩

/-- Translations of one address that entries with one page-table entry and one address serve answer the same. -/
theorem SameContext.served (h : SameContext kind s t) (hs : Served va kind s e u) (ht : Served va kind t e' w)
    (hpte : e'.pte = e.pte) (haddr : physAddr e' va = physAddr e va) :
    SameAnswer (translate va kind s) (translate va kind t) := by
  cases hb : Machine.bypasses kind s with
  | true => exact h.bypassed hb va
  | false =>
    rw [translate_served hb hs, translate_served (h.bypasses.trans hb) ht]
    exact (h.checkedAddr hs.tablesOnly.csr_eq ht.tablesOnly.csr_eq hpte haddr).sameAnswer

/-- Translations of one address that both miss answer the same. -/
theorem SameContext.missed (h : SameContext kind s t) (hs : Missed va kind s) (ht : Missed va kind t) :
    SameAnswer (translate va kind s) (translate va kind t) := by
  cases hb : Machine.bypasses kind s with
  | true => exact h.bypassed hb va
  | false =>
    rw [translate_missed hb hs, translate_missed (h.bypasses.trans hb) ht]
    refine ((walk_agree h.satp h.mem h.bus h.busCalls va kind).bind (fun _ _ _ => trivial) ?_).sameAnswer
    rintro ⟨pte, level⟩ u w ⟨n, rfl, rfl⟩
    exact h.checkedAddr (by simp) (by simp) rfl (by cases level <;> rfl)

end

/-! ### The effective privilege -/

theorem Priv.ofBits_bits (p : Priv) : Priv.ofBits p.bits = p := by cases p <;> rfl

/-- Every value but 2 names a privilege level (10_state.md R26, log entry 16). -/
theorem Priv.bits_ofBits {b : BitVec 2} (h : b ≠ 2#2) : (Priv.ofBits b).bits = b := by
  revert b; decide

theorem effectivePriv_mpp {kind : Access} {s : State} (h : kind ≠ .X ∧ statusMPRV s.csr.mstatus = true) :
    effectivePriv kind s = Priv.ofBits (statusMPP s.csr.mstatus) := if_pos h

theorem effectivePriv_own {kind : Access} {s : State} (h : ¬ (kind ≠ .X ∧ statusMPRV s.csr.mstatus = true)) :
    effectivePriv kind s = s.priv := if_neg h

/-- A cleared MPRV leaves the two bits that the permission check looks at. -/
theorem clearedMPRV (w : Word) : statusMPRV (w &&& ~~~0x00020000#32) = false
    ∧ statusSUM (w &&& ~~~0x00020000#32) = statusSUM w ∧ statusMXR (w &&& ~~~0x00020000#32) = statusMXR w := by
  simp [statusMPRV, statusSUM, statusMXR]

/-- A data access under MPRV sees what an access from MPP's level without MPRV sees (60_exceptions.md R522). -/
theorem sameContext_mprv {kind : Access} {s : State} {p : Priv} (h : kind ≠ .X ∧ statusMPRV s.csr.mstatus = true)
    (hp : p.bits = statusMPP s.csr.mstatus) : SameContext kind s
      (s.inContext p { s.csr with mstatus := s.csr.mstatus &&& ~~~0x00020000#32 } s.mem s.bus s.busCalls) := by
  obtain ⟨hmprv, hsum, hmxr⟩ := clearedMPRV s.csr.mstatus
  refine ⟨rfl, ?_, hsum, hmxr, rfl, rfl, rfl⟩
  rw [effectivePriv_mpp h, ← hp, Priv.ofBits_bits]
  exact effectivePriv_own fun hx => Bool.false_ne_true (hmprv.symm.trans hx.2)

/-- Settles O38: the effective privilege decides the bypass, and a data access under MPRV is in the same context as one
from MPP's level. -/
theorem identityBypass : Obligations.IdentityBypass := by
  intro va kind s
  refine ⟨fun hm h2 => ?_, effectivePriv_own, bypasses_iff, fun h => translate_bypassed (bypasses_iff.2 ?_) va,
    fun hm p hp => ?_⟩
  · rw [effectivePriv_mpp hm, Priv.bits_ofBits h2]
  · rcases h with h | ⟨hm, h3⟩ | ⟨hm, hM⟩
    · exact .inl h
    · right; rw [effectivePriv_mpp hm, h3]; rfl
    · right; rw [effectivePriv_own hm, hM]
  · have hc := sameContext_mprv hm hp
    rcases served_or_missed va kind s with ⟨e, u, h⟩ | h
    · exact hc.served h (h.inContext _ _ _ _ _) rfl rfl
    · exact hc.missed h (h.inContext _ _ _ _ _)

end Sys2Proof.Machine
end

section
/-! Translation repeated, and served from the tables as by a walk where they agree with memory (21_mmu_tlb.md R181,
R183). -/

namespace Sys2Proof.Machine

section
variable {va va' : Word} {kind kind' : Access} {s t u w : State} {e e' : TlbEntry}

/-! ### The entry that has served serves again -/

/-- A promotion changes no answer of a lookup that does not look at ranks. -/
theorem firstWay_promote {n : Nat} (ways : Vector TlbEntry n) (k : Fin n) {p : TlbEntry → Bool}
    (hp : ∀ e r, p { e with lru := r } = p e) : firstWay (promote ways k) p = firstWay ways p := by
  unfold firstWay
  congr 1
  funext i
  rw [promote_getElem, hp]

/-- Where no way served before, an inserted entry that serves is found. -/
theorem firstWay_fill {n : Nat} [NeZero n] {ways : Vector TlbEntry n} {p : TlbEntry → Bool}
    (hp : ∀ e r, p { e with lru := r } = p e) (hways : ∀ j : Fin n, p ways[j] = false) (he : p e = true) :
    ∃ k r, firstWay (fill ways e) p = some k ∧ (fill ways e)[k] = { e with lru := r } := by
  obtain ⟨k, -, hk⟩ := fill_inserted ways e
  refine ⟨k, n - 1, firstWay_eq_some.2 ⟨?_, fun j hj => ?_⟩, ?_⟩
  · rw [hk k, if_pos rfl, hp, he]
  · rw [hk j, if_neg (ne_of_lt hj), hp, hways]
  · rw [hk k, if_pos rfl]

/-- The way that was promoted is found again. -/
theorem hitSet_again {sets ways : Nat} [NeZero sets] {t t' : SetTlb sets ways} (h : hitSet t va = some (e, t')) :
    ∃ r t'', hitSet t' va = some ({ e with lru := r }, t'') := by
  obtain ⟨k, hk, rfl, rfl⟩ := hitSet_eq_some_iff.1 h
  refine ⟨ways - 1, _, hitSet_eq_some_iff.2 ⟨k, ?_, ?_, rfl⟩⟩
  · rw [updateSet_getElem, if_pos rfl, firstWay_promote _ _ fun _ _ => rfl, hk]
  · rw [updateSet_getElem, if_pos rfl, promote_getElem, if_pos rfl]

/-- The inserted entry is found where the set had none that serves. -/
theorem hitSet_fill {sets ways : Nat} [NeZero sets] [NeZero ways] {t : SetTlb sets ways} (h : hitSet t va = none)
    (he : baseMatch va e = true) :
    ∃ r t'', hitSet (updateSet t va fun w => fill w e) va = some ({ e with lru := r }, t'') := by
  obtain ⟨k, r, hk, hr⟩ := firstWay_fill (fun _ _ => rfl) (hitSet_eq_none.1 h) he
  refine ⟨r, _, hitSet_eq_some_iff.2 ⟨k, ?_, ?_, rfl⟩⟩
  · rw [updateSet_getElem, if_pos rfl, hk]
  · rw [updateSet_getElem, if_pos rfl, hr]

/-- An entry that served an address serves it at once again (21_mmu_tlb.md R152). -/
theorem Served.again (h : Served va kind s e u) : ∃ r w, Served va kind u { e with lru := r } w := by
  rcases h with h | ⟨hs, h⟩
  · obtain ⟨k, hk, rfl, rfl⟩ := hitSuper_eq_some_iff.1 h
    refine ⟨_, _, .inl (hitSuper_eq_some_iff.2 ⟨k, ?_, promote_getElem s.stlb k k, rfl⟩)⟩
    exact (firstWay_promote s.stlb k fun _ _ => rfl).trans hk
  · have hsuper := hitSuper_eq_none.1 hs
    obtain ⟨hk, t, ht, rfl⟩ | ⟨hk, t, ht, rfl⟩ := hitBase_eq_some_iff.1 h <;> obtain ⟨r, t', hr⟩ := hitSet_again ht
    · exact ⟨r, _, .inr ⟨hitSuper_eq_none.2 hsuper, hitBase_eq_some_iff.2 (.inl ⟨hk, t', hr, rfl⟩)⟩⟩
    · exact ⟨r, _, .inr ⟨hitSuper_eq_none.2 hsuper, hitBase_eq_some_iff.2 (.inr ⟨hk, t', hr, rfl⟩)⟩⟩

theorem baseMatch_newEntry (va' va pte : Word) (asid : BitVec 9) :
    baseMatch va' (newEntry va pte .basePage asid) = true ↔ vpn va' = vpn va := by
  rw [baseMatch_iff, eq_comm (a := vpn va')]
  simp [newEntry]

theorem superMatch_newEntry (va' va pte : Word) (asid : BitVec 9) :
    superMatch asid va' (newEntry va pte .superPage asid) = true ↔ vpn1 va' = vpn1 va := by
  have hvpn : (vpn1 va ++ 0#10).extractLsb' 10 10 = vpn1 va := by
    apply BitVec.eq_of_toNat_eq
    rw [BitVec.extractLsb'_toNat, append_eq_ofNat, BitVec.toNat_ofNat]
    have := (vpn1 va).isLt
    simp [Nat.shiftRight_eq_div_pow]
    omega
  rw [superMatch_iff, eq_comm (a := vpn1 va')]
  simp [newEntry, hvpn]

/-- The entry that a walk inserted serves the address that was walked (21_mmu_tlb.md R165, R167). -/
theorem served_insertEntry (h : Missed va kind s) (pte : Word) (level : PageLevel) :
    ∃ r w, Served va kind (insertEntry va pte level kind s) { newEntry va pte level s.asidCache with lru := r } w := by
  obtain ⟨hs, hb⟩ := h
  have hsuper := hitSuper_eq_none.1 hs
  cases level with
  | superPage =>
    obtain ⟨k, r, hk, hr⟩ := firstWay_fill (p := superMatch s.asidCache va) (fun _ _ => rfl) hsuper
      ((superMatch_newEntry va va pte s.asidCache).2 rfl)
    exact ⟨r, _, .inl (hitSuper_eq_some_iff.2 ⟨k, hk, hr, rfl⟩)⟩
  | basePage =>
    have hnew := (baseMatch_newEntry va va pte s.asidCache).2 rfl
    cases kind
    all_goals
      obtain ⟨r, t, hr⟩ := hitSet_fill (Option.map_eq_none_iff.1 hb) hnew
      exact ⟨r, _, .inr ⟨hitSuper_eq_none.2 hsuper, Option.map_eq_some_iff.2 ⟨_, hr, rfl⟩⟩⟩

/-- A completed check leaves the state as it is. -/
theorem checkedAddr_ok_state {eff : Priv} {pa : PAddr} (h : checkedAddr e va kind eff s = .ok pa u) : u = s := by
  rcases checkedAddr_cases e va kind eff s with h' | h' <;> rw [h'] at h <;> cases h
  rfl

/-- Repeated at once, a completed translation gives the same address (21_mmu_tlb.md R181). -/
theorem translate_repeats {pa : PAddr} (h : translate va kind s = .ok pa u) : ∃ w, translate va kind u = .ok pa w := by
  cases hb : bypasses kind s with
  | true =>
    rw [translate_bypassed hb] at h
    cases h
    exact ⟨s, translate_bypassed hb va⟩
  | false =>
    rcases served_or_missed va kind s with ⟨e, t, hs⟩ | hm
    · rw [translate_served hb hs] at h
      obtain rfl := checkedAddr_ok_state h
      obtain ⟨r, w, hw⟩ := hs.again
      exact (((hs.tablesOnly.sameContext kind).served hs hw rfl rfl).1 pa).1 ⟨u, (translate_served hb hs).trans h⟩
    · rw [translate_missed hb hm, Res.bind_eq_ok] at h
      obtain ⟨⟨pte, level⟩, t, hwalk, h⟩ := h
      obtain rfl := checkedAddr_ok_state h
      obtain ⟨n, rfl⟩ : ∃ n, t = { s with busCalls := n } := ⟨_, walk_ok_busOnly hwalk⟩
      have hmt : Missed va kind { s with busCalls := n } := hm.inContext s.priv s.csr s.mem s.bus n
      obtain ⟨r, w, hw⟩ := served_insertEntry hmt pte level
      have ht := insertEntry_tablesOnly va pte level kind { s with busCalls := n }
      have hctx := ht.sameContext kind
      rw [translate_served (hctx.bypasses.trans hb) hw]
      exact ((hctx.checkedAddr ht.csr_eq hw.tablesOnly.csr_eq rfl rfl).sameAnswer.1 pa).1 ⟨_, h⟩

/-! ### Walks that memory answers -/

theorem busAfter_ramOnly (h : RamOnly s.bus) (pa : PAddr) (n : Nat) : busAfter s .read pa n = s := by
  have hserved : servedBy s.bus pa.toNat n ≠ some .oracle := by
    unfold servedBy
    split
    · rename_i r hr
      split
      · have := h r (List.mem_of_find?_eq_some hr)
        simpa using this
      · simp
    · simp
  rw [busAfter_read_eq, if_neg hserved]

/-- A walk that memory answers changes nothing. -/
theorem walk_ramOnly (h : RamOnly s.bus) (va : Word) (kind : Access) : (walk va kind s).After (· = s) := by
  have hafter := busAfter_ramOnly h
  simp only [walk_eq, walkLevel0_eq, hafter]
  split_ifs <;> exact rfl

/-- The same walk from a state with other tables. -/
theorem TablesOnly.walk_ok (h : TablesOnly s u) {r : Word × PageLevel} (hw : walk va kind s = .ok r s) :
    walk va kind u = .ok r u := by
  obtain ⟨-, hcsr, -, hmem, hbus, hcalls⟩ := h.fields
  have hagree := walk_agree (by rw [hcsr]) hmem hbus hcalls va kind
  rw [hw] at hagree
  cases hu : walk va kind u <;> rw [hu] at hagree <;> simp only [Res.Agree] at hagree
  obtain ⟨rfl, n, hs, rfl⟩ := hagree
  have : s.busCalls = n := congrArg State.busCalls hs
  rw [← this, ← hcalls]

/-- A completed walk looks only at the page numbers that its level uses: the root is read at VPN1, and the level-0 table,
which only a base page reaches, at VPN0 (21_mmu_tlb.md R155). -/
theorem walk_ok_congr {pte : Word} {level : PageLevel} (h : walk va kind s = .ok (pte, level) u)
    (h1 : vpn1 va' = vpn1 va) (h0 : level = .basePage → vpn0 va' = vpn0 va) (kind' : Access) :
    walk va' kind' s = .ok (pte, level) u := by
  simp only [walk_eq, walkLevel0_eq, h1] at h ⊢
  cases level with
  | basePage =>
    rw [h0 rfl]
    split_ifs at h ⊢ <;> simp_all
  | superPage =>
    split_ifs at h ⊢ <;> simp_all

/-! ### Entries that agree with memory -/

/-- A superpage entry that could serve an address is the leaf at which the walk for it ends (21_mmu_tlb.md R183). -/
abbrev SuperAgrees (s : State) (va : Word) (kind : Access) (e : TlbEntry) : Prop :=
  superMatch s.asidCache va e = true → walk va kind s = .ok (e.pte, .superPage) s

/-- A base-page entry that could serve an address is the leaf at which the walk for it ends (21_mmu_tlb.md R183). -/
abbrev BaseAgrees (s : State) (va : Word) (kind : Access) (e : TlbEntry) : Prop :=
  baseMatch va e = true → walk va kind s = .ok (e.pte, .basePage) s

/-- Every entry of t that could serve an address is the leaf at which the walk for it from s ends. -/
abbrev EntriesAgree (s t : State) : Prop := ∀ (va : Word) (kind : Access),
  (∀ j : Fin Config.stlbEntries, SuperAgrees s va kind t.stlb[j])
    ∧ (∀ j : Fin Config.itlbWays, BaseAgrees s va kind t.itlb[setIndex Config.itlbSets va][j])
    ∧ (∀ j : Fin Config.dtlbWays, BaseAgrees s va kind t.dtlb[setIndex Config.dtlbSets va][j])

/-- Tables that agree with the walks from s agree with those of the state they stand in. -/
theorem TablesOnly.coherent (h : TablesOnly s u) (hu : EntriesAgree s u) : TlbCoherent u := by
  obtain ⟨-, -, hasid, -⟩ := h.fields
  intro va kind
  obtain ⟨hst, hi, hd⟩ := hu va kind
  exact ⟨fun j hj => h.walk_ok (hst j (by rwa [← hasid])), fun j hj => h.walk_ok (hi j hj),
    fun j hj => h.walk_ok (hd j hj)⟩

/-- What the rewriting of a set keeps of every way in it, each set keeps of its own ways. -/
theorem updateSet_set_forall {sets ways : Nat} [NeZero sets] {P : TlbEntry → Prop} {t : SetTlb sets ways} {i : Fin sets}
    {f : Vector TlbEntry ways → Vector TlbEntry ways} (h : ∀ j : Fin ways, P t[i][j])
    (hf : ∀ w : Vector TlbEntry ways, (∀ j : Fin ways, P w[j]) → ∀ j : Fin ways, P (f w)[j]) (va : Word)
    (j : Fin ways) : P (updateSet t va f)[i][j] := by
  rw [updateSet_getElem]
  split
  · rename_i hi; subst hi; exact hf _ h j
  · exact h j

/-- A hit changes ranks only, of which no walk speaks. -/
theorem Served.entriesAgree (h : Served va kind s e u) (hs : EntriesAgree s s) : EntriesAgree s u := by
  intro va' kind'
  obtain ⟨hst, hi, hd⟩ := hs va' kind'
  have hpromote : ∀ {n : Nat} (k : Fin n) (w : Vector TlbEntry n), (∀ j : Fin n, BaseAgrees s va' kind' w[j]) →
      ∀ j : Fin n, BaseAgrees s va' kind' (promote w k)[j] :=
    fun k w hw => promote_forall (P := BaseAgrees s va' kind') (fun _ _ he => he) hw k
  rcases h with h | ⟨-, h⟩
  · obtain ⟨k, -, -, rfl⟩ := hitSuper_eq_some_iff.1 h
    exact ⟨promote_forall (P := SuperAgrees s va' kind') (fun _ _ he => he) hst k, hi, hd⟩
  · obtain ⟨-, t, ht, rfl⟩ | ⟨-, t, ht, rfl⟩ := hitBase_eq_some_iff.1 h <;>
      obtain ⟨k, -, -, rfl⟩ := hitSet_eq_some_iff.1 ht
    · exact ⟨hst, updateSet_set_forall hi (hpromote k) va, hd⟩
    · exact ⟨hst, hi, updateSet_set_forall hd (hpromote k) va⟩

/-- The two page numbers of an address are the halves of its page number (21_mmu_tlb.md R141). -/
theorem vpn_halves (va : Word) : vpn1 va = (vpn va).extractLsb' 10 10 ∧ vpn0 va = (vpn va).extractLsb' 0 10 := by
  constructor <;> ext i hi
  · simp [vpn, vpn1, show 10 + i < 20 by omega, show 12 + (10 + i) = 22 + i by omega]
  · simp [vpn, vpn0, show i < 20 by omega]

theorem vpn_congr (h : vpn va' = vpn va) : vpn1 va' = vpn1 va ∧ vpn0 va' = vpn0 va := by
  simp only [vpn_halves, h, and_self]

/-- The entry of a walk agrees with memory: a walk for any address that it could serve ends at the same leaf. -/
theorem insertEntry_entriesAgree {pte : Word} {level : PageLevel} (hs : EntriesAgree s s)
    (hw : walk va kind s = .ok (pte, level) s) : EntriesAgree s (insertEntry va pte level kind s) := by
  intro va' kind'
  obtain ⟨hst, hi, hd⟩ := hs va' kind'
  cases level with
  | superPage =>
    have hnew : SuperAgrees s va' kind' (newEntry va pte .superPage s.asidCache) := fun hm =>
      walk_ok_congr hw ((superMatch_newEntry ..).1 hm) nofun kind'
    exact ⟨fill_forall (P := SuperAgrees s va' kind') (fun _ _ he => he) hst hnew, hi, hd⟩
  | basePage =>
    have hnew : BaseAgrees s va' kind' (newEntry va pte .basePage s.asidCache) := fun hm =>
      have hvpn := vpn_congr ((baseMatch_newEntry ..).1 hm)
      walk_ok_congr hw hvpn.1 (fun _ => hvpn.2) kind'
    have hfill : ∀ {n : Nat} [NeZero n] (w : Vector TlbEntry n), (∀ j : Fin n, BaseAgrees s va' kind' w[j]) →
        ∀ j : Fin n, BaseAgrees s va' kind' (fill w (newEntry va pte .basePage s.asidCache))[j] :=
      fun w hw => fill_forall (P := BaseAgrees s va' kind') (fun _ _ he => he) hw hnew
    cases kind with
    | X => exact ⟨hst, updateSet_set_forall hi hfill va, hd⟩
    | R | W => exact ⟨hst, hi, updateSet_set_forall hd hfill va⟩

/-- A translation that memory answers changes the tables only and keeps them in agreement with memory
(21_mmu_tlb.md R183). -/
theorem translate_coherent (hram : RamOnly s.bus) (hs : TlbCoherent s) (va : Word) (kind : Access) :
    (translate va kind s).After fun u => TablesOnly s u ∧ TlbCoherent u := by
  have hself : TablesOnly s s ∧ TlbCoherent s := ⟨rfl, hs⟩
  cases hb : bypasses kind s with
  | true => rw [translate_bypassed hb]; exact hself
  | false =>
    rcases served_or_missed va kind s with ⟨e, u, h⟩ | h
    · rw [translate_served hb h]
      exact checkedAddr_after _ _ _ _ ⟨h.tablesOnly, h.tablesOnly.coherent (h.entriesAgree hs)⟩
    · rw [translate_missed hb h]
      have hafter := walk_ramOnly hram va kind
      rcases hw : walk va kind s with ⟨⟨pte, level⟩, u⟩ | ⟨e, v, u⟩ | r <;> rw [hw] at hafter
      · obtain rfl : u = s := hafter
        have ht := insertEntry_tablesOnly va pte level kind u
        exact checkedAddr_after _ _ _ _ ⟨ht, ht.coherent (insertEntry_entriesAgree hs hw)⟩
      · obtain rfl : u = s := hafter
        exact hself
      · trivial

/-! ### Served as walked -/

/-- After a full flush no entry is valid, so none serves (21_mmu_tlb.md R176). -/
theorem tlbFlushAll_serves_none (asid : BitVec 9) (va : Word) (s : State) :
    (∀ j : Fin Config.stlbEntries, superMatch asid va (tlbFlushAll s).stlb[j] = false)
      ∧ (∀ (i : Fin Config.itlbSets) (j : Fin Config.itlbWays), baseMatch va (tlbFlushAll s).itlb[i][j] = false)
      ∧ (∀ (i : Fin Config.dtlbSets) (j : Fin Config.dtlbWays), baseMatch va (tlbFlushAll s).dtlb[i][j] = false) := by
  simp only [tlbFlushAll, dropEntries_itlb, dropEntries_dtlb, dropEntries_stlb, dropSets_getElem, dropWays_getElem,
    superMatch, baseMatch]
  simp

theorem missed_tlbFlushAll (va : Word) (kind : Access) (s : State) : Missed va kind (tlbFlushAll s) := by
  obtain ⟨hst, hi, hd⟩ := tlbFlushAll_serves_none (tlbFlushAll s).asidCache va s
  refine ⟨hitSuper_eq_none.2 hst, ?_⟩
  by_cases hk : kind = .X
  · rw [hk, hitBase_fetch, hitSet_eq_none.2 (hi _)]; rfl
  · rw [hitBase_data hk, hitSet_eq_none.2 (hd _)]; rfl

theorem tlbFlushAll_tablesOnly (s : State) : TablesOnly s (tlbFlushAll s) := rfl

/-- Where the tables agree with memory, an entry that serves is the leaf at which the walk ends. -/
theorem Served.walk_eq (h : Served va kind s e u) (hl : TlbLegal s) (hc : TlbCoherent s) :
    ∃ level, walk va kind s = .ok (e.pte, level) s ∧ e.level = level ∧ e.ppn = ptePpn e.pte := by
  obtain ⟨-, hli, hld, hlst⟩ := hl
  obtain ⟨hst, hi, hd⟩ := hc va kind
  rcases h with h | ⟨-, h⟩
  · obtain ⟨k, hk, rfl, -⟩ := hitSuper_eq_some_iff.1 h
    have hm := (firstWay_eq_some.1 hk).1
    obtain ⟨hlevel, hppn, -⟩ := (hlst k).1 ((superMatch_iff ..).1 hm).1
    exact ⟨_, hst k hm, hlevel, hppn⟩
  · obtain ⟨-, t, ht, -⟩ | ⟨-, t, ht, -⟩ := hitBase_eq_some_iff.1 h <;>
      obtain ⟨k, hk, rfl, -⟩ := hitSet_eq_some_iff.1 ht <;> have hm := (firstWay_eq_some.1 hk).1
    · obtain ⟨hlevel, hppn, -⟩ := hli _ k ((baseMatch_iff ..).1 hm).1
      exact ⟨_, hi k hm, hlevel, hppn⟩
    · obtain ⟨hlevel, hppn, -⟩ := hld _ k ((baseMatch_iff ..).1 hm).1
      exact ⟨_, hd k hm, hlevel, hppn⟩

/-- Where the tables agree with memory, a translation answers as a full walk (21_mmu_tlb.md R181). -/
theorem translate_sameAnswer_flushed (hl : TlbLegal s) (hc : TlbCoherent s) (va : Word) (kind : Access) :
    SameAnswer (translate va kind s) (translate va kind (tlbFlushAll s)) := by
  have hctx := (tlbFlushAll_tablesOnly s).sameContext kind
  have hmiss := missed_tlbFlushAll va kind s
  rcases served_or_missed va kind s with ⟨e, u, h⟩ | h
  · cases hb : bypasses kind s with
    | true => exact hctx.bypassed hb va
    | false =>
      obtain ⟨level, hw, hlevel, hppn⟩ := h.walk_eq hl hc
      rw [translate_served hb h, translate_missed (hctx.bypasses.trans hb) hmiss,
        (tlbFlushAll_tablesOnly s).walk_ok hw, Res.bind_ok]
      refine (hctx.checkedAddr h.tablesOnly.csr_eq (insertEntry_csr ..) (newEntry_pte ..) ?_).sameAnswer
      simp only [physAddr, newEntry, hlevel, hppn]
  · exact hctx.missed h hmiss

theorem Res.After.leaves {P : State → Prop} {r : Res PAddr} (h : r.After P) (hu : Leaves r u) : P u := by
  rcases hu with ⟨pa, rfl⟩ | ⟨e, v, rfl⟩ <;> exact h

end

/-- Empty tables agree with any memory. -/
theorem tlbCoherent_tlbFlushAll (s : State) : TlbCoherent (tlbFlushAll s) := by
  intro va kind
  obtain ⟨hst, hi, hd⟩ := tlbFlushAll_serves_none (tlbFlushAll s).asidCache va s
  exact ⟨fun j hj => absurd hj (Bool.eq_false_iff.1 (hst j)), fun j hj => absurd hj (Bool.eq_false_iff.1 (hi _ j)),
    fun j hj => absurd hj (Bool.eq_false_iff.1 (hd _ j))⟩

/-- Settles O42: an entry that served or was inserted serves again; and where memory answers and the tables agree with
it, each translation answers as one after a full flush, which sees nothing of the translation before. -/
theorem translationRepeats : Obligations.TranslationRepeats := by
  refine ⟨fun _ _ _ _ _ => translate_repeats, fun s hl hc hram va kind => ⟨translate_sameAnswer_flushed hl hc va kind,
    fun u hu => ?_⟩, tlbCoherent_tlbFlushAll⟩
  have hlegal := (translate_tlbLegal va kind s hl).leaves hu
  obtain ⟨hsame, hcoherent⟩ := (translate_coherent hram hc va kind).leaves hu
  refine ⟨hlegal, hcoherent, fun va' kind' => ?_⟩
  have hflushed : TablesOnly (tlbFlushAll s) (tlbFlushAll u) := by
    rw [TablesOnly] at *; rw [hsame]; rfl
  exact ((translate_sameAnswer_flushed hlegal hcoherent va' kind').trans
    ((hflushed.sameContext kind').missed (missed_tlbFlushAll ..) (missed_tlbFlushAll ..)).symm).trans
    (translate_sameAnswer_flushed hl hc va' kind').symm

end Sys2Proof.Machine
end

section
/-! The tests of the opcode table's rows, field by field: `raw &&& mask = pattern` says that some slices of the word
have given values (30_encoding.md R201). -/

namespace Sys2Proof

/-! ### Masks and fields -/

/-- The lowest bit and the width of a field of an instruction word. -/
abbrev Field := Nat × Nat

/-- The bits of a field. -/
def Field.mask (f : Field) : Word := (BitVec.allOnes f.2).setWidth 32 <<< f.1

/-- The bits of a list of fields. -/
def maskOf (fs : List Field) : Word := fs.foldr (·.mask ||| ·) 0#32

/-- Two words have the same bits in every field of a list. -/
def agreeOn : List Field → Word → Word → Bool
  | [], _, _ => true
  | f :: fs, a, b => a.extractLsb' f.1 f.2 == b.extractLsb' f.1 f.2 && agreeOn fs a b

/-- The fields that a mask of the table is made of, each as the decoder reads it, so that a row's test becomes equations
between the decoder's own slices and constants. -/
def fieldsOf (mask : Word) : List Field :=
  match mask with
  | 0x0000007F#32 => [(0, 7)]
  | 0x0000707F#32 => [(0, 7), (12, 3)]
  | 0xFE00707F#32 => [(0, 7), (12, 3), (25, 7)]
  | 0xFE007FFF#32 => [(0, 7), (12, 3), (25, 7), (7, 5)]
  | 0xF800707F#32 => [(0, 7), (12, 3), (27, 5)]
  | 0xF9F0707F#32 => [(0, 7), (12, 3), (27, 5), (20, 5)]
  | 0xFFFFFFFF#32 => [(0, 7), (12, 3), (0, 32)]
  | 0x0000E003#32 => [(0, 2), (13, 3)]
  | 0x0000EF83#32 => [(0, 2), (13, 3), (7, 5)]
  | 0x0000EC03#32 => [(0, 2), (13, 3), (10, 2)]
  | 0x0000FC03#32 => [(0, 2), (13, 3), (10, 2), (12, 1)]
  | 0x0000FC63#32 => [(0, 2), (13, 3), (10, 2), (12, 1), (5, 2)]
  | 0x0000F003#32 => [(0, 2), (13, 3), (12, 1)]
  | 0x0000F07F#32 => [(0, 2), (13, 3), (12, 1), (2, 5)]
  | 0x0000FFFF#32 => [(0, 2), (13, 3), (12, 1), (2, 5), (7, 5)]
  | 0x00001FE0#32 => [(7, 4), (11, 2), (5, 1), (6, 1)]
  | 0x0000107C#32 => [(12, 1), (2, 5)]
  | 0x00000F80#32 => [(7, 5)]
  | 0x0000007C#32 => [(2, 5)]
  | _ => []

theorem Field.getLsbD_mask (f : Field) {k : Nat} (hk : k < 32) :
    f.mask.getLsbD k = decide (f.1 ≤ k ∧ k < f.1 + f.2) := by
  rw [Bool.eq_iff_iff]
  simp only [mask, BitVec.getLsbD_shiftLeft, BitVec.getLsbD_setWidth, BitVec.getLsbD_allOnes, hk, decide_true,
    Bool.and_eq_true, Bool.not_eq_true', decide_eq_true_eq, decide_eq_false_iff_not, true_and]
  omega

theorem Field.and_mask_eq_iff (f : Field) (a b : Word) :
    a &&& f.mask = b &&& f.mask ↔ a.extractLsb' f.1 f.2 = b.extractLsb' f.1 f.2 := by
  simp only [BitVec.eq_of_getLsbD_eq_iff, BitVec.getLsbD_and]
  constructor
  · intro h k hk
    by_cases hk' : f.1 + k < 32
    · simpa [hk, f.getLsbD_mask hk'] using h (f.1 + k) hk'
    · simp [BitVec.getLsbD_of_ge _ _ (Nat.le_of_not_lt hk')]
  · intro h k hk
    rw [f.getLsbD_mask hk]
    by_cases hf : f.1 ≤ k ∧ k < f.1 + f.2
    · have hk' : k - f.1 < f.2 := by omega
      simpa [hk', Nat.add_sub_cancel' hf.1, hf] using h _ hk'
    · simp [hf]

theorem and_or_eq_iff (a b m n : Word) :
    a &&& (m ||| n) = b &&& (m ||| n) ↔ a &&& m = b &&& m ∧ a &&& n = b &&& n := by
  simp only [BitVec.eq_of_getLsbD_eq_iff, BitVec.getLsbD_and, BitVec.getLsbD_or, ← forall_and]
  refine forall₂_congr fun k _ => ?_
  cases a.getLsbD k <;> cases b.getLsbD k <;> simp

theorem and_maskOf_eq_iff (fs : List Field) (a b : Word) :
    a &&& maskOf fs = b &&& maskOf fs ↔ agreeOn fs a b = true := by
  induction fs with
  | nil => simp [maskOf, agreeOn]
  | cons f fs ih =>
    rw [agreeOn, Bool.and_eq_true, ← ih, beq_iff_eq, ← f.and_mask_eq_iff]
    exact and_or_eq_iff ..

/-! ### Rows -/

/-- None of the pairs (mask, value) of a row's constraint holds of the bits `w`, field by field. -/
def noneAgree (w : Word) : List (Word × Word) → Bool
  | [] => true
  | c :: cs => !agreeOn (fieldsOf c.1) w c.2 && noneAgree w cs

/-- The test of a row, field by field. -/
def TableRow.fitsFields (r : TableRow) (w : Word) : Bool :=
  agreeOn (fieldsOf r.mask) w r.pattern && noneAgree w r.excluded

/-- The fields of a mask are the whole mask, and the pattern has no bit outside it. -/
def fieldsExact (mask pattern : Word) : Bool := maskOf (fieldsOf mask) == mask && pattern &&& mask == pattern

theorem and_beq_eq_agreeOn {m p : Word} (h : fieldsExact m p = true) (w : Word) :
    (w &&& m == p) = agreeOn (fieldsOf m) w p := by
  obtain ⟨hm, hp⟩ := Bool.and_eq_true_iff.1 h
  rw [Bool.eq_iff_iff, ← and_maskOf_eq_iff, beq_iff_eq, beq_iff_eq.1 hm, beq_iff_eq.1 hp]

theorem opcodeTable_fieldsExact : ∀ r ∈ opcodeTable,
    (fieldsExact r.mask r.pattern && r.excluded.all fun c => fieldsExact c.1 c.2) = true := by decide

theorem all_eq_noneAgree {cs : List (Word × Word)} (h : (cs.all fun c => fieldsExact c.1 c.2) = true) (w : Word) :
    (cs.all fun c => w &&& c.1 != c.2) = noneAgree w cs := by
  induction cs with
  | nil => rfl
  | cons c cs ih =>
    obtain ⟨hc, hcs⟩ := Bool.and_eq_true_iff.1 h
    rw [List.all_cons, bne, and_beq_eq_agreeOn hc, ih hcs, noneAgree]

theorem fits_eq_fitsFields {r : TableRow} (hr : r ∈ opcodeTable) (w : Word) : r.fits w = r.fitsFields w := by
  obtain ⟨hrow, hex⟩ := Bool.and_eq_true_iff.1 (opcodeTable_fieldsExact r hr)
  rw [TableRow.fits, TableRow.fitsFields, and_beq_eq_agreeOn hrow, all_eq_noneAgree hex]

/-- The names of the rows of a list that fit the bits `w`, field by field. -/
def fittingNames (rows : List TableRow) (w : Word) : List String := (rows.filter (·.fitsFields w)).map (·.name)

theorem fittingNames_nil (w : Word) : fittingNames [] w = [] := rfl

theorem fittingNames_cons (r : TableRow) (rows : List TableRow) (w : Word) : fittingNames (r :: rows) w =
    (if agreeOn (fieldsOf r.mask) w r.pattern && noneAgree w r.excluded then [r.name] else [])
      ++ fittingNames rows w := by
  simp only [fittingNames, List.filter_cons, TableRow.fitsFields]
  split <;> rfl

theorem mem_fittingNames_opcodeTable {w : Word} {n : String} :
    n ∈ fittingNames opcodeTable w ↔ ∃ r ∈ opcodeTable, r.fits w = true ∧ r.name = n := by
  simp only [fittingNames, List.mem_map, List.mem_filter, and_assoc]
  exact exists_congr fun r => and_congr_right fun hr => by rw [fits_eq_fitsFields hr]

/-- The pattern of a row and b have the same bits where both the fields `fs` and the row look. -/
def TableRow.compatible (fs : List Field) (b : Word) (r : TableRow) : Bool :=
  b &&& maskOf fs &&& maskOf (fieldsOf r.mask) == r.pattern &&& maskOf (fieldsOf r.mask) &&& maskOf fs

theorem TableRow.compatible_of_fitsFields {fs : List Field} {b w : Word} {r : TableRow} (h : agreeOn fs w b = true)
    (hr : r.fitsFields w = true) : r.compatible fs b = true := by
  obtain ⟨hp, -⟩ := Bool.and_eq_true_iff.1 hr
  rw [compatible, beq_iff_eq, ← (and_maskOf_eq_iff ..).2 h, ← (and_maskOf_eq_iff ..).2 hp]
  ac_rfl

theorem fittingNames_filter_compatible {fs : List Field} {b w : Word} (h : agreeOn fs w b = true) (rows : List TableRow) :
    fittingNames (rows.filter (·.compatible fs b)) w = fittingNames rows w := by
  rw [fittingNames, List.filter_filter, fittingNames]
  congr 1
  refine List.filter_congr fun r _ => ?_
  cases hf : r.fitsFields w with
  | true => exact TableRow.compatible_of_fitsFields h hf
  | false => rfl

/-- Where the bits `w` have the fields `fs` of b, the rows that fit are among any part of the table that holds the rows
compatible with b. -/
theorem fittingNames_opcodeTable_of_agree (w : Word) (part : List TableRow) (fs : List Field) (b : Word)
    (h : agreeOn fs w b = true) (hpart : opcodeTable.filter (·.compatible fs b) = part.filter (·.compatible fs b)) :
    fittingNames opcodeTable w = fittingNames part w := by
  rw [← fittingNames_filter_compatible h, hpart, fittingNames_filter_compatible h]

end Sys2Proof
end

section
/-! The decoder against the opcode table: for each opcode and quadrant, the rows that fit and the instruction
decoded have the same name (30_encoding.md R201 to R206, 48_compressed.md R432 to R459). -/

namespace Sys2Proof

/-- The name of the instruction that the decoder answers, if it answers one. -/
def decodedNames : Except Illegal Instr → List String
  | .ok i => [mnemonic i]
  | .error _ => []

@[simp] theorem decodedNames_ok (i : Instr) : decodedNames (.ok i) = [mnemonic i] := rfl

@[simp] theorem decodedNames_error (e : Illegal) : decodedNames (.error e) = [] := rfl

/-! ### Small fields -/

theorem bitVec2_cases (b : BitVec 2) : b = 0#2 ∨ b = 1#2 ∨ b = 2#2 ∨ b = 3#2 := by
  revert b; decide

theorem bitVec3_cases (b : BitVec 3) :
    b = 0#3 ∨ b = 1#3 ∨ b = 2#3 ∨ b = 3#3 ∨ b = 4#3 ∨ b = 5#3 ∨ b = 6#3 ∨ b = 7#3 := by
  revert b; decide

theorem eq_three_of_ne {b : BitVec 2} (h0 : b ≠ 0#2) (h1 : b ≠ 1#2) (h2 : b ≠ 2#2) : b = 3#2 := by
  simpa [h0, h1, h2] using bitVec2_cases b

theorem eq_seven_of_ne {b : BitVec 3} (h0 : b ≠ 0#3) (h1 : b ≠ 1#3) (h2 : b ≠ 2#3) (h3 : b ≠ 3#3) (h4 : b ≠ 4#3)
    (h5 : b ≠ 5#3) (h6 : b ≠ 6#3) : b = 7#3 := by
  simpa [h0, h1, h2, h3, h4, h5, h6] using bitVec3_cases b

theorem eq_one_iff_ne_zero {b : BitVec 1} : b = 1#1 ↔ b ≠ 0#1 := by
  revert b; decide

theorem append_eq_zero_iff {n m : Nat} {hi : BitVec n} {lo : BitVec m} :
    hi ++ lo = 0#(n + m) ↔ hi = 0#n ∧ lo = 0#m :=
  ⟨eq_zero_of_append_eq_zero, by rintro ⟨rfl, rfl⟩; exact BitVec.zero_append_zero⟩

/-- The immediate of C.ADDI16SP and C.LUI, `c[12] : c[6:2]` (48_compressed.md R439, R441). -/
theorem imm6_eq_zero_iff {hi : BitVec 1} {lo : BitVec 5} : hi ++ lo = 0#6 ↔ hi = 0#1 ∧ lo = 0#5 :=
  append_eq_zero_iff

/-- The immediate of C.ADDI4SPN, a permutation of `c[12:5]` (48_compressed.md R432). -/
theorem nzuimm_eq_zero_iff {a : BitVec 4} {b : BitVec 2} {c d : BitVec 1} :
    a ++ b ++ c ++ d ++ 0#2 = 0#10 ↔ a = 0#4 ∧ b = 0#2 ∧ c = 0#1 ∧ d = 0#1 := by
  rw [append_eq_zero_iff (n := 8), append_eq_zero_iff (n := 7), append_eq_zero_iff (n := 6),
    append_eq_zero_iff (n := 4)]
  simp only [and_assoc, and_true]

section
variable {w : Word}

/-! ### 32-bit words -/

theorem decodeLoad_names (h : w.extractLsb' 0 7 = 0x03#7) :
    fittingNames opcodeTable w = decodedNames (decodeLoad w) := by
  have rows := fittingNames_opcodeTable_of_agree w tableMain [(0, 7)] 0x03#32 (by simp [agreeOn, h]) rfl
  simp only [tableMain, fittingNames_cons, fittingNames_nil, fieldsOf, agreeOn, noneAgree, h] at rows
  unfold decodeLoad
  split <;> simp_all [mnemonic]

theorem decodeStore_names (h : w.extractLsb' 0 7 = 0x23#7) :
    fittingNames opcodeTable w = decodedNames (decodeStore w) := by
  have rows := fittingNames_opcodeTable_of_agree w tableMain [(0, 7)] 0x23#32 (by simp [agreeOn, h]) rfl
  simp only [tableMain, fittingNames_cons, fittingNames_nil, fieldsOf, agreeOn, noneAgree, h] at rows
  unfold decodeStore
  split <;> simp_all [mnemonic]

theorem decodeBranch_names (h : w.extractLsb' 0 7 = 0x63#7) :
    fittingNames opcodeTable w = decodedNames (decodeBranch w) := by
  have rows := fittingNames_opcodeTable_of_agree w tableMain [(0, 7)] 0x63#32 (by simp [agreeOn, h]) rfl
  simp only [tableMain, fittingNames_cons, fittingNames_nil, fieldsOf, agreeOn, noneAgree, h] at rows
  unfold decodeBranch
  split <;> simp_all [mnemonic]

theorem decodeMiscMem_names (h : w.extractLsb' 0 7 = 0x0F#7) :
    fittingNames opcodeTable w = decodedNames (decodeMiscMem w) := by
  have rows := fittingNames_opcodeTable_of_agree w tableSystem [(0, 7)] 0x0F#32 (by simp [agreeOn, h]) rfl
  simp only [tableSystem, fittingNames_cons, fittingNames_nil, fieldsOf, agreeOn, noneAgree, h] at rows
  unfold decodeMiscMem
  split <;> simp_all [mnemonic]

theorem decodeOpImm_names (h : w.extractLsb' 0 7 = 0x13#7) :
    fittingNames opcodeTable w = decodedNames (decodeOpImm w) := by
  have rows := fittingNames_opcodeTable_of_agree w tableAlu [(0, 7)] 0x13#32 (by simp [agreeOn, h]) rfl
  simp only [tableAlu, fittingNames_cons, fittingNames_nil, fieldsOf, agreeOn, noneAgree, h] at rows
  unfold decodeOpImm
  dsimp only
  split
  case h_2 => split <;> simp_all [mnemonic]
  case h_6 => split_ifs <;> simp_all [mnemonic]
  case h_8 h0 h1 h2 h3 h4 h5 h6 => simp [rows, mnemonic, eq_seven_of_ne h0 h1 h2 h3 h4 h5 h6]
  all_goals simp_all [mnemonic]

theorem decodeOpBase_names (h : w.extractLsb' 0 7 = 0x33#7) (h7 : w.extractLsb' 25 7 = 0x00#7)
    (rd rs1 rs2 : Reg) :
    fittingNames opcodeTable w = [mnemonic (decodeOpBase (w.extractLsb' 12 3) rd rs1 rs2)] := by
  have rows := fittingNames_opcodeTable_of_agree w tableAlu [(0, 7), (25, 7)] 0x33#32 (by simp [agreeOn, h, h7]) rfl
  simp only [tableAlu, fittingNames_cons, fittingNames_nil, fieldsOf, agreeOn, noneAgree, h, h7] at rows
  rcases bitVec3_cases (w.extractLsb' 12 3) with h3 | h3 | h3 | h3 | h3 | h3 | h3 | h3 <;>
    simp [rows, decodeOpBase, mnemonic, h3]

theorem decodeOpMul_names (h : w.extractLsb' 0 7 = 0x33#7) (h7 : w.extractLsb' 25 7 = 0x01#7)
    (rd rs1 rs2 : Reg) :
    fittingNames opcodeTable w = [mnemonic (decodeOpMul (w.extractLsb' 12 3) rd rs1 rs2)] := by
  have rows := fittingNames_opcodeTable_of_agree w tableAlu [(0, 7), (25, 7)] 0x02000033#32
    (by simp [agreeOn, h, h7]) rfl
  simp only [tableAlu, fittingNames_cons, fittingNames_nil, fieldsOf, agreeOn, noneAgree, h, h7] at rows
  rcases bitVec3_cases (w.extractLsb' 12 3) with h3 | h3 | h3 | h3 | h3 | h3 | h3 | h3 <;>
    simp [rows, decodeOpMul, mnemonic, h3]

theorem decodeOp_names (h : w.extractLsb' 0 7 = 0x33#7) :
    fittingNames opcodeTable w = decodedNames (decodeOp w) := by
  have rows := fittingNames_opcodeTable_of_agree w tableAlu [(0, 7)] 0x33#32 (by simp [agreeOn, h]) rfl
  simp only [tableAlu, fittingNames_cons, fittingNames_nil, fieldsOf, agreeOn, noneAgree, h] at rows
  unfold decodeOp
  dsimp only
  split <;> rename_i h7
  · exact decodeOpBase_names h h7 ..
  · exact decodeOpMul_names h h7 ..
  · split <;> simp_all [mnemonic]
  · simp_all

theorem decodeSystem_names (h : w.extractLsb' 0 7 = 0x73#7) :
    fittingNames opcodeTable w = decodedNames (decodeSystem w) := by
  have rows := fittingNames_opcodeTable_of_agree w tableSystem [(0, 7)] 0x73#32 (by simp [agreeOn, h]) rfl
  simp only [tableSystem, fittingNames_cons, fittingNames_nil, fieldsOf, agreeOn, noneAgree, h] at rows
  unfold decodeSystem
  dsimp only
  split
  case h_1 => split_ifs <;> simp_all [mnemonic]
  all_goals simp_all [mnemonic]

theorem decodeAmo_names (h : w.extractLsb' 0 7 = 0x2F#7) :
    fittingNames opcodeTable w = decodedNames (decodeAmo w) := by
  have rows := fittingNames_opcodeTable_of_agree w tableAtomic [(0, 7)] 0x2F#32 (by simp [agreeOn, h]) rfl
  simp only [tableAtomic, fittingNames_cons, fittingNames_nil, fieldsOf, agreeOn, noneAgree, h] at rows
  unfold decodeAmo
  dsimp only
  split
  · split
    case h_3 => split <;> simp_all [mnemonic]
    all_goals simp_all [mnemonic]
  · simp_all

theorem decode32_names (h2 : w.extractLsb' 0 2 = 3#2) :
    fittingNames opcodeTable w = decodedNames (decode32 w) := by
  unfold decode32
  dsimp only
  split <;> rename_i h
  · exact decodeLoad_names h
  · exact decodeMiscMem_names h
  · exact decodeOpImm_names h
  · rw [fittingNames_opcodeTable_of_agree w tableMain [(0, 7)] 0x17#32 (by simp [agreeOn, h]) rfl]
    simp [tableMain, fittingNames_cons, fittingNames_nil, fieldsOf, agreeOn, noneAgree, mnemonic, h]
  · exact decodeStore_names h
  · exact decodeAmo_names h
  · exact decodeOp_names h
  · rw [fittingNames_opcodeTable_of_agree w tableMain [(0, 7)] 0x37#32 (by simp [agreeOn, h]) rfl]
    simp [tableMain, fittingNames_cons, fittingNames_nil, fieldsOf, agreeOn, noneAgree, mnemonic, h]
  · exact decodeBranch_names h
  · rw [fittingNames_opcodeTable_of_agree w tableMain [(0, 7)] 0x67#32 (by simp [agreeOn, h]) rfl]
    split <;> simp_all [tableMain, fittingNames_cons, fittingNames_nil, fieldsOf, agreeOn, noneAgree, mnemonic]
  · rw [fittingNames_opcodeTable_of_agree w tableMain [(0, 7)] 0x6F#32 (by simp [agreeOn, h]) rfl]
    simp [tableMain, fittingNames_cons, fittingNames_nil, fieldsOf, agreeOn, noneAgree, mnemonic, h]
  · exact decodeSystem_names h
  · rw [fittingNames_opcodeTable_of_agree w (tableMain ++ tableAlu ++ tableSystem ++ tableAtomic) [(0, 2)] 3#32
      (by simp [agreeOn, h2]) rfl]
    simp_all [tableMain, tableAlu, tableSystem, tableAtomic, fittingNames_cons, fittingNames_nil, fieldsOf, agreeOn]

/-! ### Compressed instructions -/

theorem decodeQuadrant0_names (h : w.extractLsb' 0 2 = 0#2) :
    fittingNames opcodeTable w = decodedNames (decodeQuadrant0 (w.extractLsb' 0 16)) := by
  have rows := fittingNames_opcodeTable_of_agree w tableShort [(0, 2)] 0#32 (by simp [agreeOn, h]) rfl
  simp only [tableShort, fittingNames_cons, fittingNames_nil, fieldsOf, agreeOn, noneAgree, h] at rows
  simp only [decodeQuadrant0, BitVec.extractLsb'_extractLsb'_of_le, Nat.reduceAdd, Nat.reduceLeDiff]
  split
  case h_1 => split <;> simp_all [mnemonic, nzuimm_eq_zero_iff]
  all_goals simp_all [mnemonic]

theorem decodeCArith_names (h : w.extractLsb' 0 2 = 1#2) (h3 : w.extractLsb' 13 3 = 4#3) :
    fittingNames opcodeTable w = decodedNames (decodeCArith (w.extractLsb' 0 16)) := by
  have rows := fittingNames_opcodeTable_of_agree w tableShort [(0, 2), (13, 3)] 0x8001#32
    (by simp [agreeOn, h, h3]) rfl
  simp only [tableShort, fittingNames_cons, fittingNames_nil, fieldsOf, agreeOn, noneAgree, h, h3] at rows
  simp only [decodeCArith, BitVec.extractLsb'_extractLsb'_of_le, BitVec.getLsbD_eq_extractLsb', Nat.reduceAdd,
    Nat.reduceLeDiff, beq_iff_eq, eq_one_iff_ne_zero]
  split
  case h_3 => simp_all [mnemonic]
  case h_4 h0 h1 h2 =>
    have h10 := eq_three_of_ne h0 h1 h2
    split
    · simp_all
    · split
      case h_4 h0 h1 h2 => simp_all [mnemonic, eq_three_of_ne h0 h1 h2]
      all_goals simp_all [mnemonic]
  all_goals split <;> simp_all [mnemonic]

theorem decodeQuadrant1_names (h : w.extractLsb' 0 2 = 1#2) :
    fittingNames opcodeTable w = decodedNames (decodeQuadrant1 (w.extractLsb' 0 16)) := by
  have rows := fittingNames_opcodeTable_of_agree w tableShort [(0, 2)] 1#32 (by simp [agreeOn, h]) rfl
  simp only [tableShort, fittingNames_cons, fittingNames_nil, fieldsOf, agreeOn, noneAgree, h] at rows
  simp only [decodeQuadrant1, BitVec.extractLsb'_extractLsb'_of_le, Nat.reduceAdd, Nat.reduceLeDiff]
  split
  case h_1 => split <;> simp_all [mnemonic]
  case h_4 => split_ifs <;> simp_all [mnemonic, imm6_eq_zero_iff]
  case h_5 h3 => exact decodeCArith_names h h3
  case h_8 h0 h1 h2 h3 h4 h5 h6 => simp [rows, mnemonic, eq_seven_of_ne h0 h1 h2 h3 h4 h5 h6]
  all_goals simp_all [mnemonic]

theorem decodeQuadrant2_names (h : w.extractLsb' 0 2 = 2#2) :
    fittingNames opcodeTable w = decodedNames (decodeQuadrant2 (w.extractLsb' 0 16)) := by
  have rows := fittingNames_opcodeTable_of_agree w tableShort [(0, 2)] 2#32 (by simp [agreeOn, h]) rfl
  simp only [tableShort, fittingNames_cons, fittingNames_nil, fieldsOf, agreeOn, noneAgree, h] at rows
  simp only [decodeQuadrant2, BitVec.extractLsb'_extractLsb'_of_le, BitVec.getLsbD_eq_extractLsb', Nat.reduceAdd,
    Nat.reduceLeDiff, beq_iff_eq, eq_one_iff_ne_zero]
  split
  case h_4 => simp_all [mnemonic]
  case h_5 => simp_all
  all_goals split_ifs <;> simp_all [mnemonic, eq_one_iff_ne_zero]

theorem decode16_names (h2 : w.extractLsb' 0 2 ≠ 3#2) :
    fittingNames opcodeTable w = decodedNames (decode16 (w.extractLsb' 0 16)) := by
  rw [decode16, BitVec.extractLsb'_extractLsb'_of_le (by decide)]
  split
  · exact decodeQuadrant0_names ‹_›
  · exact decodeQuadrant1_names ‹_›
  · exact decodeQuadrant2_names ‹_›
  · rcases bitVec2_cases (w.extractLsb' 0 2) with h | h | h | h <;> contradiction

end

/-! ### The statement -/

/-- The rows that fit are the decoded instruction's own, or none where nothing decodes (30_encoding.md R201, R202). -/
theorem fittingNames_opcodeTable (raw : Word) : fittingNames opcodeTable raw = decodedNames (decode raw) := by
  rw [decode]
  split <;> rename_i h
  · exact decode32_names (beq_iff_eq.1 h)
  · exact decode16_names fun h3 => h (beq_iff_eq.2 h3)

theorem mem_decodedNames {d : Except Illegal Instr} {n : String} :
    n ∈ decodedNames d ↔ ∃ i, d = .ok i ∧ mnemonic i = n := by
  cases d <;> simp [eq_comm]

/-- Settles O3: the names of the rows that fit are, for every word, the list of the decoded instruction's one name. -/
theorem decodeAgreesWithOpcodeTable : Obligations.DecodeAgreesWithOpcodeTable := by
  intro raw
  have hnames : ∀ n, (∃ i, decode raw = .ok i ∧ mnemonic i = n)
      ↔ ∃ r ∈ opcodeTable, r.fits raw = true ∧ r.name = n :=
    fun n => by rw [← mem_decodedNames, ← fittingNames_opcodeTable, mem_fittingNames_opcodeTable]
  exact ⟨fun i hi => (hnames _).1 ⟨i, hi, rfl⟩, fun r hr hf => (hnames _).2 ⟨r, hr, hf, rfl⟩⟩

end Sys2Proof
end

section
/-! Decoding an encoded instruction gives it back (30_encoding.md, 48_compressed.md): what the decoder reads in a word
of each format, then the instructions format by format. -/

namespace Sys2Proof.Laws.LowBits

/-- The low two bits of every encoding say its length. -/
theorem statement (i : Instr) : Statement i := by
  cases i
  exacts [lui .., auipc .., jal .., jalr .., beq .., bne .., blt .., bge .., bltu .., bgeu .., lb .., lh .., lw ..,
      lbu .., lhu .., sb .., sh .., sw .., addi .., slti .., sltiu .., xori .., ori .., andi .., slli .., srli ..,
      srai .., add .., sub .., sll .., slt .., sltu .., xor .., srl .., sra .., or .., and .., mul .., mulh ..,
      mulhsu .., mulhu .., div .., divu .., rem .., remu .., fence .., fenceI .., ecall, ebreak, sret, mret, wfi,
      sfenceVma .., csrrw .., csrrs .., csrrc .., csrrwi .., csrrsi .., csrrci .., lrW .., scW .., amoSwapW ..,
      amoAddW .., amoXorW .., amoAndW .., amoOrW .., amoMinW .., amoMaxW .., amoMinuW .., amoMaxuW .., cAddi4spn ..,
      cLw .., cSw .., cNop .., cAddi .., cJal .., cLi .., cAddi16sp .., cLui .., cSrli .., cSrai .., cAndi ..,
      cSub .., cXor .., cOr .., cAnd .., cJ .., cBeqz .., cBnez .., cSlli .., cLwsp .., cJr .., cMv .., cEbreak,
      cJalr .., cAdd .., cSwsp ..]

end Sys2Proof.Laws.LowBits

namespace Sys2Proof

open BitVec (extractLsb'_append_eq_of_le extractLsb'_append_eq_of_add_le extractLsb'_eq_self
  extractLsb'_append_extractLsb'_eq_extractLsb')

/-! ### The 32-bit formats (R192) -/

section
variable (funct7 opcode : BitVec 7) (rs2 rs1 rd funct5 : BitVec 5) (funct3 : BitVec 3) (imm : BitVec 12)
  (upperImm : BitVec 20) {off : BitVec 13} {joff : BitVec 21} (aq rl : Bool)

theorem encR_fields : (encR funct7 rs2 rs1 funct3 rd opcode).extractLsb' 0 7 = opcode
    ∧ (encR funct7 rs2 rs1 funct3 rd opcode).extractLsb' 7 5 = rd
    ∧ (encR funct7 rs2 rs1 funct3 rd opcode).extractLsb' 12 3 = funct3
    ∧ (encR funct7 rs2 rs1 funct3 rd opcode).extractLsb' 15 5 = rs1
    ∧ (encR funct7 rs2 rs1 funct3 rd opcode).extractLsb' 20 5 = rs2
    ∧ (encR funct7 rs2 rs1 funct3 rd opcode).extractLsb' 25 7 = funct7 := by
  simp (disch := decide) only [encR, extractLsb'_append_eq_of_le, extractLsb'_append_eq_of_add_le, Nat.reduceSub,
    extractLsb'_eq_self, and_self]

/-- A word of another `funct7` is not the encoding. -/
theorem encR_ne {w : Word} (h : w.extractLsb' 25 7 ≠ funct7) : encR funct7 rs2 rs1 funct3 rd opcode ≠ w := by
  rintro rfl
  obtain ⟨-, -, -, -, -, h7⟩ := encR_fields funct7 opcode rs2 rs1 rd funct3
  exact h h7

theorem encI_fields : (encI imm rs1 funct3 rd opcode).extractLsb' 0 7 = opcode
    ∧ (encI imm rs1 funct3 rd opcode).extractLsb' 7 5 = rd
    ∧ (encI imm rs1 funct3 rd opcode).extractLsb' 12 3 = funct3
    ∧ (encI imm rs1 funct3 rd opcode).extractLsb' 15 5 = rs1
    ∧ (encI imm rs1 funct3 rd opcode).extractLsb' 20 12 = imm
    ∧ (encI imm rs1 funct3 rd opcode).extractLsb' 20 4 = imm.extractLsb' 0 4
    ∧ (encI imm rs1 funct3 rd opcode).extractLsb' 24 4 = imm.extractLsb' 4 4
    ∧ (encI imm rs1 funct3 rd opcode).extractLsb' 28 4 = imm.extractLsb' 8 4 := by
  simp (disch := decide) only [encI, extractLsb'_append_eq_of_le, extractLsb'_append_eq_of_add_le, Nat.reduceSub,
    extractLsb'_eq_self, and_self]

theorem encS_fields : (encS imm rs2 rs1 funct3 opcode).extractLsb' 0 7 = opcode
    ∧ (encS imm rs2 rs1 funct3 opcode).extractLsb' 12 3 = funct3
    ∧ (encS imm rs2 rs1 funct3 opcode).extractLsb' 15 5 = rs1
    ∧ (encS imm rs2 rs1 funct3 opcode).extractLsb' 20 5 = rs2
    ∧ (encS imm rs2 rs1 funct3 opcode).extractLsb' 25 7 ++ (encS imm rs2 rs1 funct3 opcode).extractLsb' 7 5 = imm := by
  simp (disch := decide) only [encS, extractLsb'_append_eq_of_le, extractLsb'_append_eq_of_add_le, Nat.reduceSub,
    extractLsb'_eq_self, extractLsb'_append_extractLsb'_eq_extractLsb', and_self]

theorem encU_fields : (encU upperImm rd opcode).extractLsb' 0 7 = opcode
    ∧ (encU upperImm rd opcode).extractLsb' 7 5 = rd ∧ (encU upperImm rd opcode).extractLsb' 12 20 = upperImm := by
  simp (disch := decide) only [encU, extractLsb'_append_eq_of_le, extractLsb'_append_eq_of_add_le, Nat.reduceSub,
    extractLsb'_eq_self, and_self]

/-- Bit 0 of an offset, which the branch and jump formats leave out, is 0 (R193). -/
theorem extractLsb'_of_isEven {n : Nat} {off : BitVec n} (h : isEven off = true) : 0#1 = off.extractLsb' 0 1 := by
  refine BitVec.eq_of_getLsbD_eq fun k hk => ?_
  obtain rfl : k = 0 := by omega
  have h0 : off.getLsbD 0 = false := by simpa [isEven] using h
  rw [BitVec.getLsbD_extractLsb', h0]; rfl

theorem encB_fields (h : isEven off = true) : (encB off rs2 rs1 funct3).extractLsb' 0 7 = 0x63#7
    ∧ (encB off rs2 rs1 funct3).extractLsb' 12 3 = funct3 ∧ (encB off rs2 rs1 funct3).extractLsb' 15 5 = rs1
    ∧ (encB off rs2 rs1 funct3).extractLsb' 20 5 = rs2 ∧ branchOffset (encB off rs2 rs1 funct3) = off := by
  simp (disch := decide) only [encB, branchOffset, extractLsb'_append_eq_of_le, extractLsb'_append_eq_of_add_le,
    Nat.reduceSub, extractLsb'_eq_self, extractLsb'_of_isEven h, extractLsb'_append_extractLsb'_eq_extractLsb',
    and_self]

theorem encJ_fields (h : isEven joff = true) : (encJ joff rd).extractLsb' 0 7 = 0x6F#7
    ∧ (encJ joff rd).extractLsb' 7 5 = rd ∧ jumpOffset (encJ joff rd) = joff := by
  simp (disch := decide) only [encJ, jumpOffset, extractLsb'_append_eq_of_le, extractLsb'_append_eq_of_add_le,
    Nat.reduceSub, extractLsb'_eq_self, extractLsb'_of_isEven h, extractLsb'_append_extractLsb'_eq_extractLsb',
    and_self]

theorem encAmo_fields : (encAmo funct5 aq rl rs2 rs1 rd).extractLsb' 0 7 = 0x2F#7
    ∧ (encAmo funct5 aq rl rs2 rs1 rd).extractLsb' 7 5 = rd
    ∧ (encAmo funct5 aq rl rs2 rs1 rd).extractLsb' 12 3 = 2#3
    ∧ (encAmo funct5 aq rl rs2 rs1 rd).extractLsb' 15 5 = rs1
    ∧ (encAmo funct5 aq rl rs2 rs1 rd).extractLsb' 20 5 = rs2
    ∧ (encAmo funct5 aq rl rs2 rs1 rd)[25] = rl
    ∧ (encAmo funct5 aq rl rs2 rs1 rd)[26] = aq
    ∧ (encAmo funct5 aq rl rs2 rs1 rd).extractLsb' 27 5 = funct5 := by
  have hbit : ∀ b, (BitVec.ofBool b == 1#1) = b := by decide
  simp (disch := decide) only [← BitVec.getLsbD_eq_getElem, BitVec.getLsbD_eq_extractLsb', encAmo,
    extractLsb'_append_eq_of_le, extractLsb'_append_eq_of_add_le, Nat.reduceSub, extractLsb'_eq_self, hbit, and_self]

end

/-- Reading back the three 4-bit fields of a FENCE (R396). -/
theorem fence_fields (fm pred succ : BitVec 4) : (fm ++ pred ++ succ).extractLsb' 0 4 = succ
    ∧ (fm ++ pred ++ succ).extractLsb' 4 4 = pred ∧ (fm ++ pred ++ succ).extractLsb' 8 4 = fm := by
  simp (disch := decide) only [extractLsb'_append_eq_of_le, extractLsb'_append_eq_of_add_le, Nat.reduceSub,
    extractLsb'_eq_self, and_self]

theorem decode32_encode {i : Instr} (hc : i.compressed = false) (hi : i.wf = true) : decode32 (encode i) = .ok i := by
  cases i with
  | lui | auipc => simp [encode, decode32, encU_fields]
  | jal => simp [encode, decode32, encJ_fields _ hi]
  | jalr => simp [encode, decode32, encI_fields]
  | beq | bne | blt | bge | bltu | bgeu => simp [encode, decode32, decodeBranch, encB_fields _ _ _ hi]
  | lb | lh | lw | lbu | lhu => simp [encode, decode32, decodeLoad, encI_fields]
  | sb | sh | sw => simp [encode, decode32, decodeStore, encS_fields]
  | addi | slti | sltiu | xori | ori | andi => simp [encode, decode32, decodeOpImm, encI_fields]
  | slli | srli | srai => simp [encode, decode32, decodeOpImm, encR_fields]
  | add | sll | slt | sltu | xor | srl | or | and => simp [encode, decode32, decodeOp, decodeOpBase, encR_fields]
  | sub | sra => simp [encode, decode32, decodeOp, encR_fields]
  | mul | mulh | mulhsu | mulhu | div | divu | rem | remu =>
    simp [encode, decode32, decodeOp, decodeOpMul, encR_fields]
  | fence | fenceI => simp [encode, decode32, decodeMiscMem, encI_fields, fence_fields]
  | ecall | ebreak | sret | mret | wfi => rfl
  | sfenceVma => simp [encode, decode32, decodeSystem, encR_fields, encR_ne]
  | csrrw | csrrs | csrrc | csrrwi | csrrsi | csrrci => simp [encode, decode32, decodeSystem, encI_fields]
  | lrW | scW | amoSwapW | amoAddW | amoXorW | amoAndW | amoOrW | amoMinW | amoMaxW | amoMinuW | amoMaxuW =>
    simp [encode, decode32, decodeAmo, encAmo_fields]
  | _ => cases hc

/-! ### The compressed formats (R205) -/

section
variable (funct3 : BitVec 3) (funct4 : BitVec 4) (funct6 : BitVec 6) (rd rs2 low5 : BitVec 5) (r r' : BitVec 3)
  (q k : BitVec 2) (imm : BitVec 6) {uimm : BitVec 7} {off : BitVec 12} {boff : BitVec 9}

theorem encCI_fields : (encCI funct3 imm rd q).extractLsb' 0 2 = q ∧ (encCI funct3 imm rd q).extractLsb' 7 5 = rd
    ∧ (encCI funct3 imm rd q).extractLsb' 13 3 = funct3
    ∧ (encCI funct3 imm rd q).extractLsb' 12 1 ++ (encCI funct3 imm rd q).extractLsb' 2 5 = imm := by
  simp (disch := decide) only [encCI, extractLsb'_append_eq_of_le, extractLsb'_append_eq_of_add_le, Nat.reduceSub,
    extractLsb'_eq_self, extractLsb'_append_extractLsb'_eq_extractLsb', and_self]

/-- A shift amount of 5 bits as the immediate (R452). -/
theorem encCI_shamt : (encCI funct3 (0#1 ++ low5) rd q).extractLsb' 2 5 = low5
    ∧ (encCI funct3 (0#1 ++ low5) rd q)[12] = false := by
  simp (disch := decide) only [← BitVec.getLsbD_eq_getElem, BitVec.getLsbD_eq_extractLsb', encCI,
    extractLsb'_append_eq_of_le, extractLsb'_append_eq_of_add_le, Nat.reduceSub, extractLsb'_eq_self, true_and]
  rfl

theorem encCMem_fields (h : uimm.extractLsb' 0 2 = 0#2) : (encCMem funct3 uimm r' r).extractLsb' 0 2 = 0#2
    ∧ (encCMem funct3 uimm r' r).extractLsb' 2 3 = r ∧ (encCMem funct3 uimm r' r).extractLsb' 7 3 = r'
    ∧ (encCMem funct3 uimm r' r).extractLsb' 13 3 = funct3
    ∧ (encCMem funct3 uimm r' r).extractLsb' 5 1 ++ (encCMem funct3 uimm r' r).extractLsb' 10 3
      ++ (encCMem funct3 uimm r' r).extractLsb' 6 1 ++ 0#2 = uimm := by
  simp (disch := decide) only [encCMem, extractLsb'_append_eq_of_le, extractLsb'_append_eq_of_add_le, Nat.reduceSub,
    extractLsb'_eq_self, ← h, extractLsb'_append_extractLsb'_eq_extractLsb', and_self]

theorem encCJ_fields (h : isEven off = true) : (encCJ funct3 off).extractLsb' 0 2 = 1#2
    ∧ (encCJ funct3 off).extractLsb' 13 3 = funct3 ∧ cjOffset (encCJ funct3 off) = off := by
  simp (disch := decide) only [encCJ, cjOffset, extractLsb'_append_eq_of_le, extractLsb'_append_eq_of_add_le,
    Nat.reduceSub, extractLsb'_eq_self, extractLsb'_of_isEven h, extractLsb'_append_extractLsb'_eq_extractLsb',
    and_self]

theorem encCB_fields (h : isEven boff = true) : (encCB funct3 r boff).extractLsb' 0 2 = 1#2
    ∧ (encCB funct3 r boff).extractLsb' 7 3 = r ∧ (encCB funct3 r boff).extractLsb' 13 3 = funct3
    ∧ cbOffset (encCB funct3 r boff) = boff := by
  simp (disch := decide) only [encCB, cbOffset, extractLsb'_append_eq_of_le, extractLsb'_append_eq_of_add_le,
    Nat.reduceSub, extractLsb'_eq_self, extractLsb'_of_isEven h, extractLsb'_append_extractLsb'_eq_extractLsb',
    and_self]

theorem encCA_fields : (encCA funct6 r low5).extractLsb' 0 2 = 1#2 ∧ (encCA funct6 r low5).extractLsb' 2 5 = low5
    ∧ (encCA funct6 r low5).extractLsb' 7 3 = r
    ∧ (encCA funct6 r low5).extractLsb' 10 2 = funct6.extractLsb' 0 2 ∧ (encCA funct6 r low5)[12] = funct6[2]
    ∧ (encCA funct6 r low5).extractLsb' 13 3 = funct6.extractLsb' 3 3 := by
  simp (disch := decide) only [← BitVec.getLsbD_eq_getElem, BitVec.getLsbD_eq_extractLsb', encCA,
    extractLsb'_append_eq_of_le, extractLsb'_append_eq_of_add_le, Nat.reduceSub, extractLsb'_eq_self, and_self]

/-- The operation and the second register of the two-register forms. -/
theorem encCA_pair_fields : (encCA funct6 r (k ++ r')).extractLsb' 2 3 = r'
    ∧ (encCA funct6 r (k ++ r')).extractLsb' 5 2 = k := by
  simp (disch := decide) only [encCA, extractLsb'_append_eq_of_le, extractLsb'_append_eq_of_add_le, Nat.reduceSub,
    extractLsb'_eq_self, and_self]

theorem encCR_fields : (encCR funct4 rd rs2).extractLsb' 0 2 = 2#2 ∧ (encCR funct4 rd rs2).extractLsb' 2 5 = rs2
    ∧ (encCR funct4 rd rs2).extractLsb' 7 5 = rd ∧ (encCR funct4 rd rs2)[12] = funct4[0]
    ∧ (encCR funct4 rd rs2).extractLsb' 13 3 = funct4.extractLsb' 1 3 := by
  simp (disch := decide) only [← BitVec.getLsbD_eq_getElem, BitVec.getLsbD_eq_extractLsb', encCR,
    extractLsb'_append_eq_of_le, extractLsb'_append_eq_of_add_le, Nat.reduceSub, extractLsb'_eq_self, and_self]

end

theorem extractLsb'_ofHalf (c : Half) : (ofHalf c).extractLsb' 0 16 = c := by
  rw [ofHalf, BitVec.extractLsb'_setWidth_of_le (by decide), extractLsb'_eq_self]

/-- The offset of C.ADDI16SP is a permutation of the immediate that must not be 0 (R439). -/
theorem addi16spOffset_eq_zero {c : Half} (h : c.extractLsb' 12 1 ++ c.extractLsb' 2 5 = 0#_) :
    c.extractLsb' 12 1 ++ c.extractLsb' 3 2 ++ c.extractLsb' 5 1 ++ c.extractLsb' 2 1 ++ c.extractLsb' 6 1 ++ 0#4
      = 0#10 := by
  have hsplit : c.extractLsb' 2 5
      = c.extractLsb' 6 1 ++ c.extractLsb' 5 1 ++ c.extractLsb' 3 2 ++ c.extractLsb' 2 1 := by
    simp (disch := decide) only [extractLsb'_append_extractLsb'_eq_extractLsb']
  obtain ⟨b12, hlow⟩ := eq_zero_of_append_eq_zero h
  rw [hsplit] at hlow
  obtain ⟨hlow, b2⟩ := eq_zero_of_append_eq_zero hlow
  obtain ⟨hlow, b34⟩ := eq_zero_of_append_eq_zero hlow
  obtain ⟨b6, b5⟩ := eq_zero_of_append_eq_zero hlow
  rw [b12, b34, b5, b2, b6]; rfl

section
variable {r : CReg} {rd : Reg} {nzimm : BitVec 10} {uimm : BitVec 8}

theorem decode16_cAddi4spn (h : nzimm.extractLsb' 0 2 = 0#2) (hne : nzimm ≠ 0#10) :
    decode16 ((encode (.cAddi4spn r nzimm)).extractLsb' 0 16) = .ok (.cAddi4spn r nzimm) := by
  simp (disch := decide) only [encode, extractLsb'_ofHalf, decode16, decodeQuadrant0, extractLsb'_append_eq_of_le,
    extractLsb'_append_eq_of_add_le, Nat.reduceSub, extractLsb'_eq_self, extractLsb'_append_extractLsb'_eq_extractLsb']
  simp (disch := decide) only [← h, extractLsb'_append_extractLsb'_eq_extractLsb', extractLsb'_eq_self, hne, if_false]

theorem decode16_cAddi16sp (h : nzimm.extractLsb' 0 4 = 0#4) (hne : nzimm ≠ 0#10) :
    decode16 ((encode (.cAddi16sp nzimm)).extractLsb' 0 16) = .ok (.cAddi16sp nzimm) := by
  generalize hc : (encode (.cAddi16sp nzimm)).extractLsb' 0 16 = c
  obtain ⟨hq, hrd, hf, hoff⟩ : c.extractLsb' 0 2 = 1#2 ∧ c.extractLsb' 7 5 = 2#5 ∧ c.extractLsb' 13 3 = 3#3
      ∧ c.extractLsb' 12 1 ++ c.extractLsb' 3 2 ++ c.extractLsb' 5 1 ++ c.extractLsb' 2 1 ++ c.extractLsb' 6 1 ++ 0#4
        = nzimm := by
    rw [← hc]
    simp (disch := decide) only [encode, extractLsb'_ofHalf, extractLsb'_append_eq_of_le,
      extractLsb'_append_eq_of_add_le, Nat.reduceSub, extractLsb'_eq_self,
      extractLsb'_append_extractLsb'_eq_extractLsb', ← h, and_self]
  have himm : c.extractLsb' 12 1 ++ c.extractLsb' 2 5 ≠ 0#6 := fun h0 =>
    hne (hoff ▸ addi16spOffset_eq_zero h0)
  simp only [decode16, decodeQuadrant1, hq, hf, himm, hrd, hoff, if_false, if_true]

theorem decode16_cAndi {imm : BitVec 6} :
    decode16 ((encode (.cAndi r imm)).extractLsb' 0 16) = .ok (.cAndi r imm) := by
  simp (disch := decide) only [encode, extractLsb'_ofHalf, decode16, decodeQuadrant1, decodeCArith,
    extractLsb'_append_eq_of_le, extractLsb'_append_eq_of_add_le, Nat.reduceSub, extractLsb'_eq_self,
    extractLsb'_append_extractLsb'_eq_extractLsb']

theorem decode16_cLwsp (h : uimm.extractLsb' 0 2 = 0#2) (hne : rd ≠ 0#5) :
    decode16 ((encode (.cLwsp rd uimm)).extractLsb' 0 16) = .ok (.cLwsp rd uimm) := by
  simp (disch := decide) only [encode, extractLsb'_ofHalf, decode16, decodeQuadrant2, extractLsb'_append_eq_of_le,
    extractLsb'_append_eq_of_add_le, Nat.reduceSub, extractLsb'_eq_self, extractLsb'_append_extractLsb'_eq_extractLsb',
    ← h, hne, if_false]

theorem decode16_cSwsp (h : uimm.extractLsb' 0 2 = 0#2) :
    decode16 ((encode (.cSwsp rd uimm)).extractLsb' 0 16) = .ok (.cSwsp rd uimm) := by
  simp (disch := decide) only [encode, extractLsb'_ofHalf, decode16, decodeQuadrant2, extractLsb'_append_eq_of_le,
    extractLsb'_append_eq_of_add_le, Nat.reduceSub, extractLsb'_eq_self, extractLsb'_append_extractLsb'_eq_extractLsb',
    ← h]

end

theorem decode16_encode {i : Instr} (hc : i.compressed = true) (hi : i.wf = true) :
    decode16 ((encode i).extractLsb' 0 16) = .ok i := by
  cases i with
  | cAddi4spn =>
    obtain ⟨hlow, hne⟩ := Bool.and_eq_true_iff.1 hi
    exact decode16_cAddi4spn (beq_iff_eq.1 hlow) (bne_iff_ne.1 hne)
  | cLw | cSw => simp [encode, extractLsb'_ofHalf, decode16, decodeQuadrant0, encCMem_fields _ _ _ (beq_iff_eq.1 hi)]
  | cNop | cLi => simp [encode, extractLsb'_ofHalf, decode16, decodeQuadrant1, encCI_fields]
  | cAddi => simp [encode, extractLsb'_ofHalf, decode16, decodeQuadrant1, encCI_fields, bne_iff_ne.1 hi]
  | cJal | cJ => simp [encode, extractLsb'_ofHalf, decode16, decodeQuadrant1, encCJ_fields _ hi]
  | cAddi16sp =>
    obtain ⟨hlow, hne⟩ := Bool.and_eq_true_iff.1 hi
    exact decode16_cAddi16sp (beq_iff_eq.1 hlow) (bne_iff_ne.1 hne)
  | cLui =>
    obtain ⟨hrd, hne⟩ := Bool.and_eq_true_iff.1 hi
    simp [encode, extractLsb'_ofHalf, decode16, decodeQuadrant1, encCI_fields, bne_iff_ne.1 hrd, bne_iff_ne.1 hne]
  | cSrli | cSrai => simp [encode, extractLsb'_ofHalf, decode16, decodeQuadrant1, decodeCArith, encCA_fields]
  | cAndi => exact decode16_cAndi
  | cSub | cXor | cOr | cAnd =>
    simp [encode, extractLsb'_ofHalf, decode16, decodeQuadrant1, decodeCArith, encCA_fields, encCA_pair_fields]
  | cBeqz | cBnez => simp [encode, extractLsb'_ofHalf, decode16, decodeQuadrant1, encCB_fields _ _ hi]
  | cSlli => simp [encode, extractLsb'_ofHalf, decode16, decodeQuadrant2, encCI_fields, encCI_shamt]
  | cLwsp =>
    obtain ⟨hlow, hrd⟩ := Bool.and_eq_true_iff.1 hi
    exact decode16_cLwsp (beq_iff_eq.1 hlow) (bne_iff_ne.1 hrd)
  | cJr | cMv | cJalr | cAdd =>
    simp [encode, extractLsb'_ofHalf, decode16, decodeQuadrant2, encCR_fields, bne_iff_ne.1 hi]
  | cEbreak => rfl
  | cSwsp => exact decode16_cSwsp (beq_iff_eq.1 hi)
  | _ => cases hc

/-! ### All instructions -/

theorem isLong_iff (x : Word) : isLong x = true ↔ x.extractLsb' 0 2 = 3#2 := beq_iff_eq

/-- The low half of a word has its length bits. -/
theorem isLong_half (x : Word) : isLong ((x.setWidth 16).setWidth 32) = isLong x := by
  rw [isLong, isLong, BitVec.extractLsb'_setWidth_of_le (by decide), BitVec.extractLsb'_setWidth_of_le (by decide)]

theorem setWidth_append_half (hi lo : Half) : (hi ++ lo : Word).setWidth 16 = lo := by
  rw [BitVec.setWidth_eq_extractLsb' (by decide)]
  exact BitVec.extractLsb'_append_eq_right

theorem Instr.len_compressed {i : Instr} (hc : i.compressed = true) : i.len = 2#32 := if_pos hc

theorem Instr.len_long {i : Instr} (hc : i.compressed = false) : i.len = 4#32 := if_neg (by rw [hc]; nofun)

/-- The low two bits of an encoding say its length (R190). -/
theorem isLong_encode (i : Instr) : isLong (encode i) = !i.compressed := (Laws.LowBits.statement i).1

/-- The length bits of an encoding (30_encoding.md R190). -/
theorem encode_lowBits_iff (i : Instr) : (encode i).extractLsb' 0 2 = 3#2 ↔ i.compressed = false := by
  rw [← isLong_iff, isLong_encode, Bool.not_eq_true']

/-- Decoding an encoded well-formed instruction gives it back. -/
theorem decode_encode {i : Instr} (hi : i.wf = true) : decode (encode i) = .ok i := by
  rw [decode, isLong_encode]
  cases hc : i.compressed
  · exact decode32_encode hc hi
  · exact decode16_encode hc hi

end Sys2Proof
end

section
/-! The step around a fetch (40_step.md R230, R235, R237): what follows a fetch that raised, bits that are no
instruction, and an instruction; and what an instruction that raises leaves. -/

namespace Sys2Proof.Machine

section
variable {s t u : State} {f : Fetched} {i : Instr} {e : Exc} {v : Word}

/-! ### After the fetch -/

/-- An exception taken in a state whose pc is still the instruction's saves that pc (60_exceptions.md R500). -/
theorem takeException_at {pc : Word} (h : u.pc = pc) : takeException e v u = trapEntry false e.code v pc u := by
  rw [takeException, h]

/-- A fetch that raised is the exception, taken at the pc of the step (40_step.md R232). -/
theorem step_of_fetch_raise (hf : fetch (beginStep s) = .raise e v u) :
    step s = .next (trapEntry false e.code v s.pc u) ∧ TranslationOnly (beginStep s) u := by
  have hu := fetch_after (beginStep s)
  rw [hf] at hu
  obtain ⟨-, hpc, -⟩ := TranslationOnly.fields hu
  refine ⟨?_, hu⟩
  rw [step, hf]
  exact congrArg Host.Outcome.next (takeException_at hpc)

/-- What a fetch that brings bits leaves. -/
theorem fetch_ok_translationOnly (hf : fetch (beginStep s) = .ok f u) : TranslationOnly (beginStep s) u := by
  have hu := fetch_after (beginStep s)
  rwa [hf] at hu

/-- A step whose fetch brings bits goes on with them. -/
theorem step_of_fetch_ok (hf : fetch (beginStep s) = .ok f u) : step s = executeFetched f u := by
  rw [step, hf]

/-- Bits that are no instruction are an illegal-instruction exception at the pc of the step (40_step.md R234). -/
theorem step_of_illegal {x : Illegal} (hf : fetch (beginStep s) = .ok f u) (hd : decode f.raw = .error x) :
    step s = .next (trapEntry false 2 f.raw s.pc u) := by
  obtain ⟨-, hpc, -⟩ := TranslationOnly.fields (fetch_ok_translationOnly hf)
  rw [step_of_fetch_ok hf, executeFetched, hd]
  exact congrArg Host.Outcome.next (takeException_at hpc)

/-- An instruction runs with `next_pc` after its own bytes, counted from the pc of the step (40_step.md R235). -/
theorem arm_of_fetch (hf : fetch (beginStep s) = .ok f u) :
    arm f u = { u with nextPc := s.pc + f.len, rawInst := f.raw } := by
  obtain ⟨-, hpc, -⟩ := TranslationOnly.fields (fetch_ok_translationOnly hf)
  rw [arm, hpc]; rfl

section
variable (hf : fetch (beginStep s) = .ok f u) (hd : decode f.raw = .ok i)
include hf hd

/-- An instruction that answers a state is retired (40_step.md R237). -/
theorem step_of_exec_next (hx : exec i { u with nextPc := s.pc + f.len, rawInst := f.raw } = .next t) :
    step s = .next (retire i t) := by
  rw [step_of_fetch_ok hf, executeFetched, hd, arm_of_fetch hf]
  simp only [hx]

/-- A refused instruction is a refused step. -/
theorem step_of_exec_refused {r : Refusal}
    (hx : exec i { u with nextPc := s.pc + f.len, rawInst := f.raw } = .refused r) : step s = .refused r := by
  rw [step_of_fetch_ok hf, executeFetched, hd, arm_of_fetch hf]
  simp only [hx]

end

/-- What retiring is: nothing after an exception or WFI, else the commit and its interrupt check (40_step.md R237). -/
theorem retire_eq (i : Instr) (t : State) : retire i t =
    if t.result.isTrap = true ∨ i = .wfi then t else checkInterrupts { t with pc := t.nextPc, csr := t.csr.tick } := by
  rcases retire_cases i t with ⟨h, hr⟩ | ⟨ht, hi, hr⟩ <;> rw [hr]
  · rw [if_pos h]
  · rw [if_neg (by simp [ht, hi])]; rfl

/-- Settles O6: the fetched instruction is executed, and retired or refused. -/
theorem stepRunsFetchedInstruction : Obligations.StepRunsFetchedInstruction := by
  intro s f u i hf hd
  exact ⟨fun t hx => by rw [step_of_exec_next hf hd hx, retire_eq], fun r hx => step_of_exec_refused hf hd hx⟩

/-! ### Exceptions are precise -/

/-- Trap entry saves the pc in the trap register of its destination (60_exceptions.md R503). -/
theorem trapEntry_savedPc (isInt : Bool) (cause : Nat) (tval epc : Word) (s : State) :
    ((trapEntry isInt cause tval epc s).priv = .M ∧ (trapEntry isInt cause tval epc s).csr.mepc = epc)
      ∨ ((trapEntry isInt cause tval epc s).priv = .S ∧ (trapEntry isInt cause tval epc s).csr.sepc = epc) := by
  rcases trapEntry_cases isInt cause tval epc s with h | h <;> rw [h]
  · exact .inr ⟨rfl, rfl⟩
  · exact .inl ⟨rfl, rfl⟩

/-- An instruction other than WFI takes an exception after accesses, or leaves the result of the step. -/
theorem Effect.raises_or_result (h : Effect i s t) (hw : i ≠ .wfi) :
    (∃ (r : Option Word) (e : Exc) (v : Word) (u : State), Accesses { s with resv := r } u ∧ t = takeException e v u)
      ∨ t.result = s.result := by
  cases h with
  | raises r e v hu => exact .inl ⟨r, e, v, _, hu, rfl⟩
  | completes r r' v hu hn =>
    obtain ⟨-, -, -, -, -, -, -, hr, -⟩ := AccessOnly.fields hu.accessOnly
    exact .inr (by simpa using hr)
  | csrWrites num v old => exact .inr (by simp)
  | flushes => exact .inr rfl
  | returnsFromM => exact .inr rfl
  | returnsFromS => exact .inr rfl
  | waits hi => exact absurd hi hw

end

/-- Settles O19: an instruction that raised took an exception after accesses, which keep registers, counter and pc. -/
theorem exceptionsArePrecise : Obligations.ExceptionsArePrecise := by
  intro i s t hw hs hx ht
  rcases (exec_effect hx).raises_or_result hw with ⟨r, e, v, u, hu, rfl⟩ | hr
  · obtain ⟨-, hpc, -, -, hcsr, -⟩ := AccessOnly.fields hu.accessOnly
    have hpc : u.pc = s.pc := hpc
    refine ⟨fun q => (trapEntry_reg _ _ _ _ _ q).trans (hu.reg q), by rw [takeException_cycle, hcsr], ?_, e,
      takeException_result e v u⟩
    rw [takeException, hpc]
    exact trapEntry_savedPc _ _ _ _ u
  · rw [hr, hs] at ht; cases ht

end Sys2Proof.Machine
end

section
/-! What a fetch brings and what it raises, by its one or two parts (40_step.md R231, R232). -/

namespace Sys2Proof.Machine

section
variable {s t u : State} {a x v : Word} {w : Width} {kind : Access} {pa qa : PAddr} {e : Exc}

/-! ### Alignment -/

/-- A translation keeps the page offset (21_mmu_tlb.md R160). -/
theorem physAddr_pageOffset (e : TlbEntry) (va : Word) : (physAddr e va).toNat % 4096 = va.toNat % 4096 := by
  unfold physAddr
  split
  · rw [BitVec.toNat_append, ← Nat.shiftLeft_add_eq_or_of_lt (BitVec.isLt _), Nat.shiftLeft_eq, pageOffset_toNat]
    omega
  · rw [BitVec.toNat_append, ← Nat.shiftLeft_add_eq_or_of_lt (BitVec.isLt _), Nat.shiftLeft_eq,
      BitVec.extractLsb'_toNat _ _ va, Nat.shiftRight_zero]
    omega

theorem checkedAddr_pageOffset {e : TlbEntry} {eff : Priv} (h : checkedAddr e a kind eff s = .ok pa u) :
    pa.toNat % 4096 = a.toNat % 4096 := by
  rcases checkedAddr_cases e a kind eff s with hc | hc <;> cases hc.symm.trans h
  exact physAddr_pageOffset e a

theorem translate_pageOffset (h : translate a kind s = .ok pa u) : pa.toNat % 4096 = a.toNat % 4096 := by
  cases hb : bypasses kind s with
  | true =>
    cases (translate_bypassed hb a).symm.trans h
    rw [toNat_paddr]
  | false =>
    rcases served_or_missed a kind s with ⟨e, t, hs⟩ | hm
    · rw [translate_served hb hs] at h
      exact checkedAddr_pageOffset h
    · rw [translate_missed hb hm] at h
      obtain ⟨r, t, -, h⟩ := Res.bind_eq_ok.1 h
      exact checkedAddr_pageOffset h

/-- An address that is a multiple of a width is so after translation. -/
theorem translate_aligned {n : Nat} (h : translate a kind s = .ok pa u) (hn : n = 1 ∨ n = 2 ∨ n = 4)
    (ha : a.toNat % n = 0) : pa.toNat % n = 0 := by
  have hdvd : n ∣ 4096 := by rcases hn with rfl | rfl | rfl <;> decide
  rw [← Nat.mod_mod_of_dvd _ hdvd, translate_pageOffset h, Nat.mod_mod_of_dvd _ hdvd, ha]

/-- The width of the first part of a fetch (40_step.md R231). -/
def fetchWidth (s : State) : Width := if s.pc.getLsbD 1 = true then .half else .word

theorem fetchWidth_bytes (s : State) : (fetchWidth s).bytes = if s.pc.getLsbD 1 = true then 2 else 4 := by
  unfold fetchWidth
  split <;> rfl

theorem fetchWidth_half (h : s.pc.getLsbD 1 = true) : fetchWidth s = .half := if_pos h

theorem fetchWidth_word (h : s.pc.getLsbD 1 = false) : fetchWidth s = .word := if_neg (by rw [h]; nofun)

theorem fetchWidth_whole (h : s.pc.getLsbD 0 = false) : partsOf s.pc (fetchWidth s) = .whole := by
  cases h1 : s.pc.getLsbD 1
  · rw [fetchWidth_word h1]; exact partsOf_word h h1
  · rw [fetchWidth_half h1]; exact partsOf_half h

theorem fetchWidth_aligned (h : s.pc.getLsbD 0 = false) : s.pc.toNat % (fetchWidth s).bytes = 0 := by
  have h0 := (even_iff_toNat s.pc).1 h
  cases h1 : s.pc.getLsbD 1
  · rw [fetchWidth_word h1, Width.bytes]
    rw [BitVec.getLsbD, Nat.testBit_succ, Nat.testBit_zero, decide_eq_false_iff_not] at h1
    omega
  · rw [fetchWidth_half h1]; exact h0

/-- The second part of a fetch is at an even address too. -/
theorem secondPart_even (h : s.pc.getLsbD 0 = false) : (s.pc + 2#32).getLsbD 0 = false := even_add h rfl

/-! ### The parts of a fetch -/

theorem memRead_whole (h : partsOf a w = .whole) (kind : Access) (s : State) :
    memRead a w kind s = readPart a w kind s := by
  rw [memRead, h]

/-- A part whose translation raises. -/
theorem readPart_raises (h : translate a kind s = .raise e x u) (w : Width) : readPart a w kind s = .raise e a u := by
  obtain ⟨rfl, -⟩ := translate_raise h
  rw [readPart, h]; rfl

/-- Why a part raised: its translation did, or the bus rejected it (20_memory.md R103, R110). -/
theorem readPart_raise_cases (h : readPart a w kind s = .raise e v u) : v = a ∧ (translate a kind s = .raise e a u
    ∨ ∃ pa t, translate a kind s = .ok pa t ∧ (busAnswer t .read pa w.bytes).status ≠ .ok
      ∧ e = if (busAnswer t .read pa w.bytes).status = .align then misalignedExc kind else accessExc kind) := by
  rcases translate_cases a kind s with ⟨pa, t, ht, -⟩ | ⟨e', t, ht, -, -⟩
  · by_cases hb : (busAnswer t .read pa w.bytes).status = .ok
    · cases (readPart_ok ht hb).symm.trans h
    · cases (readPart_rejected ht hb).symm.trans h
      exact ⟨rfl, .inr ⟨pa, t, ht, hb, rfl⟩⟩
  · cases (readPart_raises ht w).symm.trans h
    exact ⟨rfl, .inl ht⟩

/-- A fetch whose first part raises. -/
theorem fetch_raises_first (h0 : s.pc.getLsbD 0 = false) (h : readPart s.pc (fetchWidth s) .X s = .raise e v u) :
    fetch s = .raise e v u := by
  rw [← memRead_whole (fetchWidth_whole h0)] at h
  unfold fetch
  split
  · rename_i h1
    rw [fetchWidth_half h1] at h
    rw [h]; rfl
  · rename_i h1
    rw [fetchWidth_word (by simpa using h1)] at h
    rw [h]; rfl

/-- A fetch at a multiple of 4 (40_step.md R231). -/
theorem fetch_word (h0 : s.pc.getLsbD 0 = false) (h1 : s.pc.getLsbD 1 = false)
    (h : readPart s.pc .word .X s = .ok x u) :
    fetch s = .ok (if isLong x then { raw := x, len := 4#32 } else shortUnit x) u := by
  rw [← memRead_whole (partsOf_word h0 h1)] at h
  rw [fetch, h1, h, Res.bind_ok]
  cases isLong x <;> rfl

section
variable (h0 : s.pc.getLsbD 0 = false) (h1 : s.pc.getLsbD 1 = true) (h : readPart s.pc .half .X s = .ok x t)
include h0 h1 h

/-- A fetch at pc 2 mod 4 of a halfword that is an instruction of its own. -/
theorem fetch_short (hl : isLong x = false) : fetch s = .ok (shortUnit x) t := by
  rw [← memRead_whole (partsOf_half h0)] at h
  rw [fetch, h1, h, Res.bind_ok, hl]; rfl

/-- A fetch at pc 2 mod 4 of a halfword that announces a 32-bit instruction goes on with the halfword after it. -/
theorem fetch_long (hl : isLong x = true) : fetch s = (readPart (s.pc + 2#32) .half .X t).bind fun hi u =>
    .ok { raw := x ||| (hi <<< 16), len := 4#32 } u := by
  have ht := readPart_after s.pc .half .X s
  rw [h] at ht
  obtain ⟨-, hpc, -⟩ := TranslationOnly.fields ht
  rw [← memRead_whole (partsOf_half h0)] at h
  rw [fetch, h1, h, Res.bind_ok, hl, hpc, ← memRead_whole (partsOf_half (secondPart_even h0))]; rfl

end

/-- Which part of a fetch raised. -/
theorem fetch_raise_cases (h0 : s.pc.getLsbD 0 = false) (h : fetch s = .raise e v u) :
    readPart s.pc (fetchWidth s) .X s = .raise e v u
      ∨ ∃ x t, readPart s.pc .half .X s = .ok x t ∧ readPart (s.pc + 2#32) .half .X t = .raise e v u := by
  rcases readPart_cases s.pc (fetchWidth s) .X s with ⟨pa, t, -, -, -, hp⟩ | ⟨e', t, hp, -⟩
  · cases h1 : s.pc.getLsbD 1
    · rw [fetchWidth_word h1] at hp
      cases (fetch_word h0 h1 hp).symm.trans h
    · rw [fetchWidth_half h1] at hp
      cases hl : isLong (busAnswer t .read pa 2).data
      · cases (fetch_short h0 h1 hp hl).symm.trans h
      · rw [fetch_long h0 h1 hp hl] at h
        rcases Res.bind_eq_raise.1 h with h | ⟨_, _, -, h⟩
        · exact .inr ⟨_, _, hp, h⟩
        · cases h
  · cases (fetch_raises_first h0 hp).symm.trans h
    exact .inl hp

/-! ### The exceptions of a fetch -/

/-- The translation of a fetch raises a page or an access fault (21_mmu_tlb.md R156, R171). -/
theorem translate_fetch_raise (h : translate a .X s = .raise e x u) : e = .instrPage ∨ e = .instrAccess := by
  rcases translate_cases a .X s with ⟨_, _, ht, -⟩ | ⟨_, _, ht, hk, -⟩ <;> cases ht.symm.trans h
  exact hk

/-- The cause of a part of a fetch that the bus rejects (20_memory.md R103, 60_exceptions.md R480). -/
theorem fetchRejected_code (status : BusStatus) :
    (if status = .align then misalignedExc .X else accessExc .X).code = if status = .align then 0 else 1 := by
  split <;> rfl

/-- A bus whose regions are memory has no oracle to answer. -/
theorem RamOnly.servedBy_ne_oracle {m : BusMap} (h : RamOnly m) (a n : Nat) : servedBy m a n ≠ some .oracle := by
  unfold servedBy
  split
  · rename_i r hr
    split
    · exact fun hk => h r (List.mem_of_find?_eq_some hr) (Option.some.inj hk)
    · nofun
  · nofun

/-- Where no oracle stands behind the bus, an aligned access is never answered `ALIGN` (20_memory.md R105). -/
theorem busAnswer_ne_align {n : Nat} (hram : RamOnly s.bus) (ha : pa.toNat % n = 0) (op : BusOp) :
    (busAnswer s op pa n).status ≠ .align := by
  unfold busAnswer
  split
  · rw [ramStatus, ha]
    dsimp only
    split_ifs <;> simp_all
  · rename_i hk
    exact absurd hk (RamOnly.servedBy_ne_oracle hram _ n)
  · rw [ha]; exact nofun

/-- What a part of a fetch raises, and that behind memory it is not the misaligned fetch (40_step.md R232). -/
theorem fetchPart_raise (h : readPart a w .X s = .raise e v u) (ha : a.toNat % w.bytes = 0) :
    v = a ∧ (e = .instrPage ∨ e = .instrAccess ∨ e = .instrMisaligned) ∧ (RamOnly s.bus → e ≠ .instrMisaligned) := by
  obtain ⟨hv, ht | ⟨pa, t, ht, -, rfl⟩⟩ := readPart_raise_cases h
  · refine ⟨hv, ?_⟩
    rcases translate_fetch_raise ht with rfl | rfl
    · exact ⟨.inl rfl, nofun⟩
    · exact ⟨.inr (.inl rfl), nofun⟩
  · refine ⟨hv, ?_, fun hram => ?_⟩
    · split
      · exact .inr (.inr rfl)
      · exact .inr (.inl rfl)
    · rw [← (translate_ok ht).toMem.bus_eq] at hram
      rw [if_neg (busAnswer_ne_align hram (translate_aligned ht w.bytes_cases ha) .read)]
      exact nofun

/-- What a fetch raises, and at the address of which part (40_step.md R232). -/
theorem fetch_raise (h0 : s.pc.getLsbD 0 = false) (h : fetch s = .raise e v u) : (v = s.pc ∨ v = s.pc + 2#32)
    ∧ (e = .instrPage ∨ e = .instrAccess ∨ e = .instrMisaligned) ∧ (RamOnly s.bus → e ≠ .instrMisaligned) := by
  rcases fetch_raise_cases h0 h with h | ⟨x, t, ht, h⟩
  · obtain ⟨hv, he⟩ := fetchPart_raise h (fetchWidth_aligned h0)
    exact ⟨.inl hv, he⟩
  · obtain ⟨hv, he, hram⟩ := fetchPart_raise h ((even_iff_toNat _).1 (secondPart_even h0))
    have hmid := readPart_after s.pc .half .X s
    rw [ht] at hmid
    exact ⟨.inr hv, he, fun hr => hram (by rw [hmid.toMem.bus_eq]; exact hr)⟩

end

/-! ### The statement -/

section
variable {s t u : State} {e : Exc} {x v : Word} (h0 : s.pc.getLsbD 0 = false)
include h0

/-- A step whose fetch raises in its first part. -/
theorem step_of_first_raise (h : readPart s.pc (fetchWidth s) .X (beginStep s) = .raise e v u) :
    step s = .next (trapEntry false e.code v s.pc u) :=
  (step_of_fetch_raise (fetch_raises_first (s := beginStep s) h0 h)).1

/-- A step whose fetch raises in its second part. -/
theorem step_of_second_raise (h1 : s.pc.getLsbD 1 = true) (hx : readPart s.pc .half .X (beginStep s) = .ok x t)
    (hl : isLong x = true) (h : readPart (s.pc + 2#32) .half .X t = .raise e v u) :
    step s = .next (trapEntry false e.code v s.pc u) := by
  refine (step_of_fetch_raise ?_).1
  rw [fetch_long (s := beginStep s) h0 h1 hx hl]
  exact Res.bind_eq_raise.2 (.inl h)

end

/-- Settles O5: a fetch raises what its first or its second part raises, and bits that do not decode are illegal. -/
theorem fetchFaultAndIllegalBitsTrap : Obligations.FetchFaultAndIllegalBitsTrap := by
  refine ⟨fun s e v u h0 hf => ?_, fun s h0 => ?_, fun s f u x hf hd =>
    ⟨step_of_illegal hf hd, fetch_ok_translationOnly hf⟩⟩
  · obtain ⟨hs, hu⟩ := step_of_fetch_raise hf
    obtain ⟨hv, he, hram⟩ := fetch_raise (s := beginStep s) h0 hf
    exact ⟨hs, hv, he, hram, hu⟩
  · dsimp only
    rw [← fetchWidth_bytes]
    simp only [← fetchRejected_code]
    refine ⟨fun e x u h => ⟨step_of_first_raise h0 (readPart_raises h _), translate_fetch_raise h⟩, fun pa u h =>
      ⟨fun hs => step_of_first_raise h0 (readPart_rejected h hs), fun hs hn hlong => ?_⟩⟩
    have h1 : s.pc.getLsbD 1 = true := by
      by_contra h1
      rw [fetchWidth_bytes, if_neg h1] at hn
      cases hn
    rw [fetchWidth_half h1] at hs ⊢
    have hlow := readPart_ok (w := .half) h hs
    exact ⟨fun e x w hh => ⟨step_of_second_raise h0 h1 hlow ((isLong_iff _).2 hlong) (readPart_raises hh _),
      translate_fetch_raise hh⟩, fun qa w hh hr =>
      step_of_second_raise h0 h1 hlow ((isLong_iff _).2 hlong) (readPart_rejected hh hr)⟩

end Sys2Proof.Machine
end

section
/-! From the bytes at pc to the instruction (40_step.md R231, R235): the bits that a fetch brings, and the step where an
encoding stands at the address that the fetch is translated to. -/

namespace Sys2Proof.Machine

/-! ### The bits -/

/-- A 16-bit unit is the low half of what was read (40_step.md R231). -/
theorem shortUnit_eq (x : Word) : shortUnit x = { raw := (x.setWidth 16).setWidth 32, len := 2#32 } := by
  rw [← lowBytes_eq_setWidth (n := 2) (by decide) x]; rfl


/-- The low half of the word at an address is the halfword there (20_memory.md R104). -/
theorem setWidth_wordAt (m : Memory) (a : Nat) : (wordAt m a).setWidth 16 = halfAt m a := by
  refine BitVec.eq_of_getLsbD_eq fun k hk => ?_
  simp only [wordAt, halfAt, BitVec.getLsbD_setWidth, BitVec.getLsbD_append, hk, decide_true, Bool.true_and]
  by_cases h8 : k < 8
  · simp only [h8, if_true]
  · simp only [h8, if_false, show k - 8 < 8 by omega, if_true]

/-- Two halfwords are a word by shift or by concatenation (40_step.md R231). -/
theorem joinHalves_readData (u t : State) (pa qa : PAddr) : readData u pa 2 ||| (readData t qa 2 <<< 16)
    = (readData t qa 2).setWidth 16 ++ (readData u pa 2).setWidth 16 :=
  (joinParts_readData .half (.inr rfl) u t pa qa).trans (BitVec.setWidth_eq _)

section
variable {s u v : State} {i : Instr} {pa qa : PAddr}

/-! ### What a fetch brings -/

theorem readPart_half {a : Word} (h : translate a .X s = .ok pa u) (hs : (busAnswer u .read pa 2).status = .ok) :
    readPart a .half .X s = .ok (readData u pa 2) (busAfter u .read pa 2) := readPart_ok (w := .half) h hs

theorem readPart_word {a : Word} (h : translate a .X s = .ok pa u) (hs : (busAnswer u .read pa 4).status = .ok) :
    readPart a .word .X s = .ok (readData u pa 4) (busAfter u .read pa 4) := readPart_ok (w := .word) h hs

section
variable (h0 : s.pc.getLsbD 0 = false)
include h0

theorem fetch_word_readData (h1 : s.pc.getLsbD 1 = false) (h : translate s.pc .X s = .ok pa u)
    (hs : (busAnswer u .read pa 4).status = .ok) :
    fetch s = .ok (if (readData u pa 4).extractLsb' 0 2 = 3#2 then { raw := readData u pa 4, len := 4#32 }
      else { raw := ((readData u pa 4).setWidth 16).setWidth 32, len := 2#32 }) (busAfter u .read pa 4) := by
  rw [fetch_word h0 h1 (readPart_word h hs), shortUnit_eq]
  simp only [isLong_iff]

section
variable (h1 : s.pc.getLsbD 1 = true) (h : translate s.pc .X s = .ok pa u)
  (hs : (busAnswer u .read pa 2).status = .ok)
include h1 h hs

theorem fetch_short_readData (hl : (readData u pa 2).extractLsb' 0 2 ≠ 3#2) :
    fetch s = .ok { raw := readData u pa 2, len := 2#32 } (busAfter u .read pa 2) := by
  rw [fetch_short h0 h1 (readPart_half h hs) (by simpa [← isLong_iff] using hl), shortUnit_eq,
    ← readData_narrow (.inr rfl) u pa]

theorem fetch_long_readData (hl : (readData u pa 2).extractLsb' 0 2 = 3#2)
    (hh : translate (s.pc + 2#32) .X (busAfter u .read pa 2) = .ok qa v)
    (hr : (busAnswer v .read qa 2).status = .ok) :
    fetch s = .ok { raw := (readData v qa 2).setWidth 16 ++ (readData u pa 2).setWidth 16, len := 4#32 }
      (busAfter v .read qa 2) := by
  rw [fetch_long h0 h1 (readPart_half h hs) ((isLong_iff _).2 hl), readPart_half hh hr, Res.bind_ok,
    joinHalves_readData]

end

end

/-! ### The step -/

/-- A step whose fetch brings an encoding runs the instruction (40_step.md R230, R235). -/
theorem stepRuns_of_fetch (hi : i.wf = true) (hf : fetch (beginStep s) = .ok { raw := encode i, len := i.len } u) :
    StepRuns s u i := by
  have hd := decode_encode hi
  unfold StepRuns
  cases hx : exec i { u with nextPc := s.pc + i.len, rawInst := encode i } with
  | next t => exact step_of_exec_next hf hd hx
  | fault r => nomatch r
  | refused r => exact step_of_exec_refused hf hd hx

/-- A part of a fetch that memory covers (20_memory.md R104, R105). -/
theorem fetchPart_ram {a : Word} {n : Nat} (hn : n = 1 ∨ n = 2 ∨ n = 4) (h : translate a .X s = .ok pa u)
    (ha : a.toNat % n = 0) (hc : RamCovers s.bus pa.toNat n) : (busAnswer u .read pa n).status = .ok
      ∧ busAfter u .read pa n = u ∧ readData u pa n = bytesAt s.mem pa.toNat n := by
  have hu := translate_ok h
  rw [← hu.mem_eq]
  exact RamCovers.read hn (hu.toMem.bus_eq ▸ hc) (translate_aligned h hn ha)

/-- A halfword of a fetch that memory covers. -/
theorem fetchHalf_ram {a : Word} (h : translate a .X s = .ok pa u) (ha : a.getLsbD 0 = false)
    (hc : RamCovers s.bus pa.toNat 2) : (busAnswer u .read pa 2).status = .ok
      ∧ busAfter u .read pa 2 = u ∧ readData u pa 2 = (halfAt s.mem pa.toNat).setWidth 32 :=
  fetchPart_ram (.inr (.inl rfl)) h ((even_iff_toNat a).1 ha) hc

/-- The word of a fetch that memory covers. -/
theorem fetchWord_ram (h0 : s.pc.getLsbD 0 = false) (h1 : s.pc.getLsbD 1 = false) (h : translate s.pc .X s = .ok pa u)
    (hc : RamCovers s.bus pa.toNat 4) : (busAnswer u .read pa 4).status = .ok
      ∧ busAfter u .read pa 4 = u ∧ readData u pa 4 = wordAt s.mem pa.toNat := by
  have ha := fetchWidth_aligned h0
  rw [fetchWidth_word h1] at ha
  exact fetchPart_ram (.inr (.inr rfl)) h ha hc

section
variable (hi : i.wf = true) (h0 : s.pc.getLsbD 0 = false) (h : translate s.pc .X (beginStep s) = .ok pa u)
include hi h0 h

/-- An encoding at a multiple of 4. -/
theorem stepRuns_word (h1 : s.pc.getLsbD 1 = false) (hc : RamCovers s.bus pa.toNat 4)
    (hb : if i.compressed then (halfAt s.mem pa.toNat).setWidth 32 = encode i else wordAt s.mem pa.toNat = encode i) :
    StepRuns s u i := by
  obtain ⟨hs, hu, hd⟩ := fetchWord_ram (s := beginStep s) h0 h1 h hc
  have hf := fetch_word (s := beginStep s) h0 h1 (readPart_word h hs)
  rw [hd, hu, beginStep_mem, shortUnit_eq, setWidth_wordAt] at hf
  refine stepRuns_of_fetch hi (hf.trans ?_)
  have hl := isLong_encode i
  split at hb <;> rename_i hcomp
  · rw [← hb, ← setWidth_wordAt, isLong_half, hcomp] at hl
    rw [hl, hb, Instr.len_compressed hcomp]; rfl
  · rw [Bool.not_eq_true] at hcomp
    rw [← hb, hcomp] at hl
    rw [hl, hb, Instr.len_long hcomp]; rfl

section
variable (h1 : s.pc.getLsbD 1 = true) (hc : RamCovers s.bus pa.toNat 2)
include h1 hc

/-- The encoding of a compressed instruction at pc 2 mod 4. -/
theorem stepRuns_short (hcomp : i.compressed = true) (hb : (halfAt s.mem pa.toNat).setWidth 32 = encode i) :
    StepRuns s u i := by
  obtain ⟨hs, hu, hd⟩ := fetchHalf_ram (s := beginStep s) h h0 hc
  have hd : readData u pa 2 = encode i := hd.trans hb
  have hf := fetch_short_readData (s := beginStep s) h0 h1 h hs (by rw [hd, Ne, encode_lowBits_iff, hcomp]; nofun)
  rw [hd, hu, ← Instr.len_compressed hcomp] at hf
  exact stepRuns_of_fetch hi hf

/-- The encoding of a 32-bit instruction in two parts. -/
theorem stepRuns_long (hcomp : i.compressed = false) (hh : translate (s.pc + 2#32) .X u = .ok qa v)
    (hq : RamCovers s.bus qa.toNat 2) (hb : halfAt s.mem qa.toNat ++ halfAt s.mem pa.toNat = encode i) :
    StepRuns s v i := by
  obtain ⟨hs, hu, hd⟩ := fetchHalf_ram (s := beginStep s) h h0 hc
  have hmid := translate_ok h
  have hbus : u.bus = s.bus := hmid.toMem.bus_eq
  obtain ⟨hs', hv, hd'⟩ := fetchHalf_ram hh (secondPart_even h0) (hbus ▸ hq)
  rw [hmid.mem_eq] at hd'
  have hl : (readData u pa 2).extractLsb' 0 2 = 3#2 := by
    rw [← encode_lowBits_iff, ← hb, ← isLong_iff, ← isLong_half, setWidth_append_half, isLong_iff] at hcomp
    rw [hd]; exact hcomp
  rw [← hu] at hh
  have hf := fetch_long_readData (s := beginStep s) h0 h1 h hs hl hh hs'
  rw [hd, hd', hv, setWidth_zeroExtended (by decide), setWidth_zeroExtended (by decide)] at hf
  refine stepRuns_of_fetch hi (hf.trans ?_)
  rw [← hb, Instr.len_long hcomp]; rfl

end

end

end

/-- Settles O7: the bits that a fetch brings are the encoding that stands there, and decode to the instruction. -/
theorem stepRunsInstructionAtPc : Obligations.StepRunsInstructionAtPc := by
  refine ⟨fun s h0 => ⟨fun h1 pa u h hs => fetch_word_readData h0 h1 h hs, fun h1 pa u h hs =>
    ⟨fetch_short_readData h0 h1 h hs, fun hl qa v hh hr => fetch_long_readData h0 h1 h hs hl hh hr⟩⟩, ?_, ?_⟩
  · intro s i hi h0 pa u h
    exact ⟨stepRuns_word hi h0 h, fun h1 hc =>
      ⟨stepRuns_short hi h0 h h1 hc, fun hcomp qa v => stepRuns_long hi h0 h h1 hc hcomp⟩⟩
  · intro s i hi h0 hb
    have hbypass : ∀ a, translate a .X (beginStep s) = .ok (a.setWidth Config.paBits) (beginStep s) :=
      translate_bypassed (s := beginStep s) (kind := .X) (bypasses_iff.2 hb)
    have hpc := hbypass s.pc
    rw [← toNat_paddr s.pc, ← toNat_paddr (s.pc + 2#32)]
    exact ⟨stepRuns_word hi h0 hpc, fun h1 hc =>
      ⟨stepRuns_short hi h0 hpc h1 hc, fun hcomp => stepRuns_long hi h0 hpc h1 hc hcomp (hbypass _)⟩⟩

end Sys2Proof.Machine
end

section
/-! Loads and stores inside one page (41_loads_stores.md R260 to R268, 48_compressed.md R433, R434, R453, R459): what an
access leaves that the bus accepts, and the statements of every instruction that makes one. -/

namespace Sys2Proof.Machine

section
variable {i : Instr} {s u : State} {ea v : Word} {w : Width} {op : BusOp} {pa : PAddr}

/-- An accepted access inside one page completes with its bus call and the write of `rd`; a store has no `rd`. -/
theorem exec_whole_completes (ha : accessOf s i = some (w, op, ea)) (h : Reaches ea w op s pa u) :
    exec i s = .next ((busAfter u op pa w.bytes).setReg (destOf i) (extendOf i (partData op u pa w.bytes))) := by
  obtain ⟨hpage, htr, hs⟩ := h
  rw [exec_whole ha (partsOf_whole hpage), accessPart_ok htr hs]
  rfl

/-- Of a load, only `rd`, the TLB and the count of oracle calls change. -/
theorem exec_onlyLoad (ha : accessOf s i = some (w, .read, ea)) (h : Reaches ea w .read s pa u)
    (hv : extendOf i (readData u pa w.bytes) = v) :
    ∃ t, exec i s = .next t ∧ OnlyLoad (destOf i) v s (busAfter u .read pa w.bytes) t := by
  have ⟨_, htr, _⟩ := h
  have hu : TranslationOnly s (busAfter u .read pa w.bytes) :=
    (translate_ok htr).trans (busAfter_read u pa w.bytes).toTranslation
  obtain ⟨hnext, hresv, hctl, htlb⟩ := setReg_control hu.toMem (destOf i) (extendOf i (readData u pa w.bytes))
  refine ⟨_, exec_whole_completes ha h, regWritten_setReg hu.toMem.sameRegs _ hv, hnext, hresv, hctl, htlb, fun b => ?_⟩
  rw [State.setReg_mem, hu.sameBytes]

/-- Of a store, only the bytes at the translated address, the TLB and the count of oracle calls change. -/
theorem exec_onlyStore (hm : s.mem.wf = true) (ha : accessOf s i = some (w, .write v, ea))
    (h : Reaches ea w (.write v) s pa u) : ∃ t, exec i s = .next t ∧ OnlyStore pa w.bytes v s u t := by
  have ⟨_, htr, hs⟩ := h
  have hacc := part_accessOnly htr (.write v) w.bytes
  have hctl := setReg_control hacc 0#5 0#32
  rw [State.setReg_zero] at hctl
  refine ⟨_, exec_whole_completes ha h, ?_⟩
  rw [(exec_store ha).2.1, State.setReg_zero]
  exact ⟨part_done hm (translate_ok htr) hs, hacc.sameRegs, hctl⟩

end

/-- Settles O46: each load is an access whose value it extends. -/
theorem loadsInPage : Obligations.LoadsInPage := by
  refine ⟨fun rd rs1 imm s u pa => ⟨fun h => ?byte, fun h => ?half, fun h => ?word⟩, fun rd rs1 uimm s u pa h => ?cLw,
    fun rd uimm s u pa h => ?cLwsp⟩
  case byte =>
    exact ⟨exec_onlyLoad (i := .lb rd rs1 imm) rfl h rfl,
      exec_onlyLoad (i := .lbu rd rs1 imm) rfl h (readData_narrow (.inl rfl) u pa)⟩
  case half =>
    exact ⟨exec_onlyLoad (i := .lh rd rs1 imm) rfl h rfl,
      exec_onlyLoad (i := .lhu rd rs1 imm) rfl h (readData_narrow (.inr rfl) u pa)⟩
  case word => exact exec_onlyLoad (i := .lw rd rs1 imm) rfl h rfl
  case cLw =>
    have hl := exec_onlyLoad (i := .cLw rd rs1 uimm) rfl h rfl
    rwa [show destOf (.cLw rd rs1 uimm) = 1#2 ++ rd from cReg_eq_wideReg rd] at hl
  case cLwsp => exact exec_onlyLoad (i := .cLwsp rd uimm) rfl h rfl

/-- Settles O47: each store is an access that writes the low bytes of `rs2`. -/
theorem storesInPage : Obligations.StoresInPage :=
  ⟨fun rs2 rs1 imm _ _ _ hm => ⟨exec_onlyStore (i := .sb rs2 rs1 imm) hm rfl, exec_onlyStore (i := .sh rs2 rs1 imm) hm rfl,
      exec_onlyStore (i := .sw rs2 rs1 imm) hm rfl⟩,
    fun rs2 rs1 uimm _ _ _ hm => exec_onlyStore (i := .cSw rs2 rs1 uimm) hm rfl,
    fun rs2 uimm _ _ _ hm => exec_onlyStore (i := .cSwsp rs2 uimm) hm rfl⟩

end Sys2Proof.Machine
end

section
/-! Branches and jumps (42_branches_jumps.md R280 to R290, 48_compressed.md R437, R449 to R451, R454, R457): comparisons
and how subtraction builds them, and what the two shared operations leave. -/

namespace Sys2Proof.Machine

/-! ### The comparisons -/

theorem lessSigned_iff (a b : Word) : lessSigned a b = true ↔ a.toInt < b.toInt := decide_eq_true_iff

theorem lessUnsigned_iff (a b : Word) : lessUnsigned a b = true ↔ a.toNat < b.toNat := decide_eq_true_iff

theorem not_lessSigned_iff (a b : Word) : (!lessSigned a b) = true ↔ a.toInt ≥ b.toInt := by
  rw [Bool.not_eq_true', Bool.eq_false_iff, ne_eq, lessSigned_iff, not_lt]

theorem not_lessUnsigned_iff (a b : Word) : (!lessUnsigned a b) = true ↔ a.toNat ≥ b.toNat := by
  rw [Bool.not_eq_true', Bool.eq_false_iff, ne_eq, lessUnsigned_iff, not_lt]

/-- Two words of the same half of the range are less than 2^31 apart, so bit 31 of the difference is the borrow. -/
theorem msb_sub_eq_ult {a b : Word} (h : a.msb = b.msb) : (a - b).msb = a.ult b := by
  have hhalf : 2 ^ 31 ≤ a.toNat ↔ 2 ^ 31 ≤ b.toNat := by
    simpa only [BitVec.msb_eq_decide, decide_eq_decide] using h
  rw [BitVec.msb_eq_decide, BitVec.ult_eq_decide, decide_eq_decide, BitVec.toNat_sub]
  omega

theorem lessSignedBySub_eq_slt (a b : Word) : lessSignedBySub a b = a.slt b := by
  unfold lessSignedBySub subOverflow
  by_cases h : a.msb = b.msb
  · rw [BitVec.slt_eq_ult_of_msb_eq h, ← msb_sub_eq_ult h]
    simp [h]
  · rw [BitVec.slt_eq_not_ult_of_msb_neq h, BitVec.ult_eq_msb_of_msb_neq h]
    simp [Bool.eq_not_of_ne h]

theorem lessUnsignedByBorrow_eq_ult (a b : Word) : lessUnsignedByBorrow a b = a.ult b := by
  unfold lessUnsignedByBorrow
  by_cases h : a.msb = b.msb
  · rw [msb_sub_eq_ult h]
    simp [h]
  · rw [BitVec.ult_eq_msb_of_msb_neq h]
    simp [Bool.eq_not_of_ne h]

/-- Settles O56: the two constructions are the orders `slt` and `ult` of words. -/
theorem comparisonsBySubtraction : Obligations.ComparisonsBySubtraction := by
  refine fun a b => ⟨sub_eq_zero, ?signed, ?unsigned⟩
  case signed => rw [lessSignedBySub_eq_slt, BitVec.slt_iff_toInt_lt]
  case unsigned => rw [lessUnsignedByBorrow_eq_ult, BitVec.ult_iff_toNat_lt]

/-! ### Branches -/

theorem onlyNextPc_setNextPc (s : State) (target : Word) : OnlyNextPc target s (s.setNextPc target) := by
  simp [OnlyNextPc, SameRegs, SameControl, SameTlbBus, SameTlb, SameBytes]

/-- A branch on a condition that says p goes to pc plus the offset where p holds, and to the old `next_pc` elsewhere. -/
theorem branchIf_goes {taken : Bool} {p : Prop} (h : taken = true ↔ p) (off : Word) {s : State} :
    ∃ t, branchIf taken off s = .next t ∧ (p → OnlyNextPc (s.pc + off) s t) ∧ (¬ p → OnlyNextPc s.nextPc s t) := by
  cases taken with
  | true => exact ⟨_, rfl, fun _ => onlyNextPc_setNextPc s _, fun hp => absurd (h.mp rfl) hp⟩
  | false => exact ⟨s, rfl, fun hp => absurd (h.mpr hp) Bool.false_ne_true, fun _ => onlyNextPc_setNextPc s s.nextPc⟩

/-- Settles O57: each of the eight is a branch on its comparison. -/
theorem branchResults : Obligations.BranchResults := by
  refine ⟨fun rs1 rs2 off s => ?long, fun rs1 off s => ?compressed⟩
  case long =>
    exact ⟨branchIf_goes beq_iff_eq _, branchIf_goes bne_iff_ne _, branchIf_goes (lessSigned_iff _ _) _,
      branchIf_goes (not_lessSigned_iff _ _) _, branchIf_goes (lessUnsigned_iff _ _) _,
      branchIf_goes (not_lessUnsigned_iff _ _) _⟩
  case compressed =>
    rw [show 1#2 ++ rs1 = cReg rs1 from (cReg_eq_wideReg rs1).symm]
    exact ⟨branchIf_goes beq_iff_eq _, branchIf_goes bne_iff_ne _⟩

/-! ### Jumps -/

theorem jump_onlyJump (rd : Reg) (target : Word) (s : State) :
    ∃ t, jump rd target s = .next t ∧ OnlyJump rd s.nextPc target s t := by
  obtain ⟨hnext, hresv, hctl, htlb⟩ := setReg_control (AccessOnly.refl (s.setNextPc target)) rd s.nextPc
  exact ⟨_, rfl, hnext, regWritten_setReg (State.setNextPc_reg s target) rd rfl, hresv, hctl, htlb,
    fun _ => by rw [State.setReg_mem, State.setNextPc_mem]⟩

/-- A jump that links to x0 writes no register. -/
theorem jump_zero_onlyNextPc (target : Word) (s : State) :
    ∃ t, jump 0#5 target s = .next t ∧ OnlyNextPc target s t :=
  ⟨_, congrArg Host.Outcome.next (State.setReg_zero _ _), onlyNextPc_setNextPc s target⟩

theorem indirectTarget_zero (base : Word) : indirectTarget base 0#32 = base &&& 0xFFFFFFFE#32 := by
  rw [indirectTarget, BitVec.add_zero]

/-- Settles O58: each of the six is a jump to its target. -/
theorem jumpResults : Obligations.JumpResults := by
  refine ⟨fun rd rs1 off imm s => ⟨jump_onlyJump rd _ s, jump_onlyJump rd _ s⟩, fun rs1 off s => ?compressed⟩
  case compressed =>
    rw [← indirectTarget_zero]
    exact ⟨jump_onlyJump _ _ s, jump_zero_onlyNextPc _ s, jump_zero_onlyNextPc _ s, jump_onlyJump _ _ s⟩

end Sys2Proof.Machine
end

section
/-! Integer ALU instructions (43_integer_alu.md R311 to R320): the values as integer arithmetic, and what a register
write leaves. -/

namespace Sys2Proof.Machine

/-! ### The values as integer arithmetic -/

theorem shiftAmount_toNat (b : Word) : (shiftAmount b).toNat = b.toNat % 32 := BitVec.extractLsb'_toNat 0 5 b

theorem shiftLeft_eq_ofNat (a : Word) (n : BitVec 5) : shiftLeft a n = BitVec.ofNat 32 (a.toNat * 2 ^ n.toNat) := by
  apply BitVec.eq_of_toNat_eq
  rw [shiftLeft, BitVec.toNat_shiftLeft, Nat.shiftLeft_eq, BitVec.toNat_ofNat]

theorem shiftRight_eq_ofNat (a : Word) (n : BitVec 5) : shiftRight a n = BitVec.ofNat 32 (a.toNat / 2 ^ n.toNat) := by
  rw [← Nat.shiftRight_eq_div_pow, ← BitVec.toNat_ushiftRight, BitVec.ofNat_toNat, BitVec.setWidth_eq, shiftRight]

theorem shiftRightArith_eq_ofInt (a : Word) (n : BitVec 5) :
    shiftRightArith a n = BitVec.ofInt 32 (a.toInt / 2 ^ n.toNat) := by
  rw [shiftRightArith, BitVec.sshiftRight, Int.shiftRight_eq_div_pow, Nat.cast_pow, Nat.cast_ofNat]

theorem sub_eq_ofInt_toInt (a b : Word) : a - b = BitVec.ofInt 32 (a.toInt - b.toInt) := by
  apply BitVec.eq_of_toInt_eq
  rw [BitVec.toInt_sub, BitVec.toInt_ofInt]

theorem boolWord_lessSigned (a b : Word) :
    boolWord (lessSigned a b) = if a.toInt < b.toInt then 1#32 else 0#32 := if_congr (lessSigned_iff a b) rfl rfl

theorem boolWord_lessUnsigned (a b : Word) :
    boolWord (lessUnsigned a b) = if a.toNat < b.toNat then 1#32 else 0#32 := if_congr (lessUnsigned_iff a b) rfl rfl

/-! ### The register write -/

theorem onlyReg_setReg (rd : Reg) (v : Word) (s : State) : OnlyReg rd v s (s.setReg rd v) := by
  obtain ⟨hnext, hresv, hctl, htlb⟩ := setReg_control (AccessOnly.refl s) rd v
  exact ⟨regWritten_setReg (fun _ => rfl) rd rfl, hnext, hresv, hctl, htlb, fun _ => by rw [State.setReg_mem]⟩

/-- An instruction that answers with one register write changes nothing else; v' is another form of the value written. -/
theorem next_setReg_onlyReg {v v' : Word} (hv : v = v') (rd : Reg) (s : State) :
    ∃ t, (Host.Outcome.next (s.setReg rd v) : Host.Outcome State Fault Refusal) = .next t ∧ OnlyReg rd v' s t :=
  ⟨_, rfl, hv ▸ onlyReg_setReg rd v s⟩

/-- Settles O53: each of the ten is one register write, of a function whose value as integer arithmetic is the one
stated. -/
theorem registerResults : Obligations.RegisterResults := by
  intro rd rs1 rs2 s
  dsimp only
  rw [← shiftAmount_toNat]
  refine ⟨?add, ?sub, ?sll, ?slt, ?sltu, ?xor, ?srl, ?sra, ?or, ?and⟩
  case add => exact next_setReg_onlyReg (BitVec.add_def _ _) rd s
  case sub => exact next_setReg_onlyReg (sub_eq_ofInt_toInt _ _) rd s
  case sll => exact next_setReg_onlyReg (shiftLeft_eq_ofNat _ _) rd s
  case slt => exact next_setReg_onlyReg (boolWord_lessSigned _ _) rd s
  case sltu => exact next_setReg_onlyReg (boolWord_lessUnsigned _ _) rd s
  case srl => exact next_setReg_onlyReg (shiftRight_eq_ofNat _ _) rd s
  case sra => exact next_setReg_onlyReg (shiftRightArith_eq_ofInt _ _) rd s
  case xor | or | and => exact next_setReg_onlyReg rfl rd s

end Sys2Proof.Machine
end

section
/-! Multiply and divide (44_muldiv.md R330 to R339): the values as integer arithmetic, and the construction by partial
products. -/

namespace Sys2Proof.Machine

/-! ### The exact products -/

theorem mulLow_eq_mul (a b : Word) : mulLow a b = a * b := by
  rw [mulLow, BitVec.ofNat_mul, BitVec.ofNat_toNat, BitVec.ofNat_toNat, BitVec.setWidth_eq, BitVec.setWidth_eq]

theorem mulLow_eq_ofInt (a b : Word) : mulLow a b = BitVec.ofInt 32 (a.toInt * b.toInt) := by
  rw [mulLow_eq_mul, BitVec.ofInt_mul, BitVec.ofInt_toInt, BitVec.ofInt_toInt]

theorem highWord_eq_ofInt (p : Int) : highWord p = BitVec.ofInt 32 (p / 2 ^ 32) := by
  apply BitVec.eq_of_toNat_eq
  rw [highWord, BitVec.extractLsb'_toNat, BitVec.toNat_ofInt, BitVec.toNat_ofInt, Nat.shiftRight_eq_div_pow]
  omega

theorem mulHighU_eq_ofNat (a b : Word) : mulHighU a b = BitVec.ofNat 32 (a.toNat * b.toNat / 2 ^ 32) := by
  rw [mulHighU, highWord_eq_ofInt, ← BitVec.ofInt_natCast]
  norm_cast

/-! ### Quotients and remainders -/

theorem eq_zero_iff_toNat (b : Word) : b = 0#32 ↔ b.toNat = 0 := BitVec.toNat_eq

theorem eq_zero_iff_toInt (b : Word) : b = 0#32 ↔ b.toInt = 0 := BitVec.toInt_inj.symm

theorem divOverflows_iff (a b : Word) : a = 0x80000000#32 ∧ b = 0xFFFFFFFF#32 ↔ a.toInt = -2 ^ 31 ∧ b.toInt = -1 :=
  and_congr BitVec.toInt_inj.symm BitVec.toInt_inj.symm

theorem divSigned_eq (a b : Word) : divSigned a b = if b.toInt = 0 then 0xFFFFFFFF#32
    else if a.toInt = -2 ^ 31 ∧ b.toInt = -1 then 0x80000000#32 else BitVec.ofInt 32 (a.toInt.tdiv b.toInt) :=
  if_congr (eq_zero_iff_toInt b) rfl (if_congr (divOverflows_iff a b) rfl rfl)

theorem divUnsigned_eq (a b : Word) : divUnsigned a b =
    if b.toNat = 0 then 0xFFFFFFFF#32 else BitVec.ofNat 32 (a.toNat / b.toNat) :=
  if_congr (eq_zero_iff_toNat b) rfl rfl

theorem remSigned_eq (a b : Word) : remSigned a b = if b.toInt = 0 then a
    else if a.toInt = -2 ^ 31 ∧ b.toInt = -1 then 0#32 else BitVec.ofInt 32 (a.toInt.tmod b.toInt) := by
  rw [Int.tmod_def]
  exact if_congr (eq_zero_iff_toInt b) rfl (if_congr (divOverflows_iff a b) rfl rfl)

theorem remUnsigned_eq (a b : Word) : remUnsigned a b =
    if b.toNat = 0 then a else BitVec.ofNat 32 (a.toNat % b.toNat) :=
  if_congr (eq_zero_iff_toNat b) rfl rfl

/-- Settles O54: each of the eight is one register write, of a function whose value as integer arithmetic is the one
stated. -/
theorem multiplyDivideResults : Obligations.MultiplyDivideResults := by
  intro rd rs1 rs2 s
  refine ⟨?mul, ?mulh, ?mulhsu, ?mulhu, ?div, ?divu, ?rem, ?remu⟩
  case mul => exact next_setReg_onlyReg (mulLow_eq_ofInt _ _) rd s
  case mulh | mulhsu => exact next_setReg_onlyReg (highWord_eq_ofInt _) rd s
  case mulhu => exact next_setReg_onlyReg (mulHighU_eq_ofNat _ _) rd s
  case div => exact next_setReg_onlyReg (divSigned_eq _ _) rd s
  case divu => exact next_setReg_onlyReg (divUnsigned_eq _ _) rd s
  case rem => exact next_setReg_onlyReg (remSigned_eq _ _) rd s
  case remu => exact next_setReg_onlyReg (remUnsigned_eq _ _) rd s

/-! ### The unsigned product from its partial products -/

/-- The low and the high word that R339 builds from its four products. -/
def addParts (p0 p1 p2 p3 : Word) : Word × Word :=
  let mid := (p0 >>> 16) + (p1 &&& 0xFFFF#32) + (p2 &&& 0xFFFF#32)
  (((mid &&& 0xFFFF#32) <<< 16) ||| (p0 &&& 0xFFFF#32), p3 + (p1 >>> 16) + (p2 >>> 16) + (mid >>> 16))

/-- The product of two 16-bit halves as a word. -/
def halfProduct (h k : Half) : Word := h.setWidth 32 * k.setWidth 32

theorem mulByParts_eq_addParts (a b : Word) : mulByParts a b = addParts
    (halfProduct (a.extractLsb' 0 16) (b.extractLsb' 0 16)) (halfProduct (a.extractLsb' 0 16) (b.extractLsb' 16 16))
    (halfProduct (a.extractLsb' 16 16) (b.extractLsb' 0 16)) (halfProduct (a.extractLsb' 16 16) (b.extractLsb' 16 16))
    := rfl

theorem half_mul_le (h k : Half) : h.toNat * k.toNat ≤ 0xFFFF * 0xFFFF :=
  Nat.mul_le_mul (Nat.le_of_lt_succ h.isLt) (Nat.le_of_lt_succ k.isLt)

theorem halfProduct_toNat (h k : Half) : (halfProduct h k).toNat = h.toNat * k.toNat := by
  have hle := half_mul_le h k
  rw [halfProduct, BitVec.toNat_mul, BitVec.toNat_setWidth_of_le (by decide), BitVec.toNat_setWidth_of_le (by decide),
    Nat.mod_eq_of_lt (by omega)]

theorem and_ffff_toNat (x : Word) : (x &&& 0xFFFF#32).toNat = x.toNat % 2 ^ 16 :=
  (BitVec.toNat_and ..).trans (Nat.and_two_pow_sub_one_eq_mod x.toNat 16)

theorem ushiftRight_16_toNat (x : Word) : (x >>> 16).toNat = x.toNat / 2 ^ 16 := by
  rw [BitVec.toNat_ushiftRight, Nat.shiftRight_eq_div_pow]

/-- A word of two halves, each the low half of a word. -/
theorem joinHalves_toNat (x y : Word) :
    (((x &&& 0xFFFF#32) <<< 16) ||| (y &&& 0xFFFF#32)).toNat = x.toNat % 2 ^ 16 * 2 ^ 16 + y.toNat % 2 ^ 16 := by
  have hy : y.toNat % 2 ^ 16 < 2 ^ 16 := Nat.mod_lt _ (by decide)
  rw [BitVec.toNat_or, BitVec.toNat_shiftLeft, and_ffff_toNat, and_ffff_toNat, Nat.shiftLeft_eq,
    Nat.mod_eq_of_lt (by omega), ← Nat.shiftLeft_eq, Nat.shiftLeft_add_eq_or_of_lt hy]

/-- No carry is lost: products of halves are small enough for the high word to hold its sum. -/
theorem addParts_sum {p0 p1 p2 p3 : Word} (h0 : p0.toNat ≤ 0xFFFF * 0xFFFF) (h1 : p1.toNat ≤ 0xFFFF * 0xFFFF)
    (h2 : p2.toNat ≤ 0xFFFF * 0xFFFF) (h3 : p3.toNat ≤ 0xFFFF * 0xFFFF) :
    (addParts p0 p1 p2 p3).2.toNat * 2 ^ 32 + (addParts p0 p1 p2 p3).1.toNat
      = p3.toNat * 2 ^ 32 + (p1.toNat + p2.toNat) * 2 ^ 16 + p0.toNat := by
  simp only [addParts, joinHalves_toNat, BitVec.toNat_add, and_ffff_toNat, ushiftRight_16_toNat]
  omega

theorem word_eq_halves (x : Word) :
    x.toNat = (x.extractLsb' 16 16).toNat * 2 ^ 16 + (x.extractLsb' 0 16).toNat := by
  have := x.isLt
  rw [BitVec.extractLsb'_toNat, BitVec.extractLsb'_toNat, Nat.shiftRight_eq_div_pow, Nat.shiftRight_zero]
  omega

theorem mulByParts_product (a b : Word) :
    (mulByParts a b).2.toNat * 2 ^ 32 + (mulByParts a b).1.toNat = a.toNat * b.toNat := by
  rw [mulByParts_eq_addParts, addParts_sum, word_eq_halves a, word_eq_halves b]
  all_goals simp only [halfProduct_toNat, half_mul_le]
  ring

theorem mulByParts_high (a b : Word) : (mulByParts a b).2 = mulHighU a b := by
  apply BitVec.eq_of_toNat_eq
  rw [mulHighU_eq_ofNat, ← mulByParts_product, BitVec.toNat_ofNat]
  have := (mulByParts a b).1.isLt
  have := (mulByParts a b).2.isLt
  omega

theorem mulByParts_low (a b : Word) : (mulByParts a b).1 = mulLow a b := by
  apply BitVec.eq_of_toNat_eq
  rw [mulLow, ← mulByParts_product, BitVec.toNat_ofNat, Nat.mul_add_mod_self_right]
  exact (Nat.mod_eq_of_lt (mulByParts a b).1.isLt).symm

/-! ### The correction for signed operands -/

/-- Read as signed, a factor with bit 31 set is 2^32 less, and the high word less by the other factor. -/
theorem highWord_mul_toInt (p : Int) (b : Word) :
    highWord (p * b.toInt) = highWord (p * b.toNat) - if b.msb then BitVec.ofInt 32 p else 0#32 := by
  rw [highWord_eq_ofInt, highWord_eq_ofInt, BitVec.toInt_eq_msb_cond]
  cases b.msb with
  | false => simp
  | true =>
    have hdiv : p * ((b.toNat : Int) - (2 ^ 32 : Nat)) / 2 ^ 32 = p * b.toNat / 2 ^ 32 + -p := by
      rw [← Int.add_mul_ediv_right _ _ (by decide)]
      congr 1
      push_cast
      ring
    simp only [if_true, hdiv, BitVec.ofInt_add, BitVec.ofInt_neg, BitVec.sub_eq_add_neg]

theorem mulHighSUByParts_eq (a b : Word) : mulHighSUByParts a b = mulHighSU a b := by
  rw [mulHighSUByParts, mulByParts_high, mulHighU, mulHighSU, Int.mul_comm a.toInt, highWord_mul_toInt,
    Int.mul_comm b.toNat, BitVec.ofInt_natCast, BitVec.ofNat_toNat, BitVec.setWidth_eq]

theorem mulHighByParts_eq (a b : Word) : mulHighByParts a b = mulHigh a b := by
  rw [mulHigh, highWord_mul_toInt, BitVec.ofInt_toInt, ← mulHighSU, ← mulHighSUByParts_eq]
  rfl

/-- Settles O55: the two words make up the product, and the signed high words are corrected one factor at a time. -/
theorem partialProductsMultiply : Obligations.PartialProductsMultiply := by
  refine fun a b => ⟨?product, mulHighByParts_eq a b, mulHighSUByParts_eq a b, mulByParts_high a b, mulByParts_low a b⟩
  case product => rw [append_eq_ofNat, mulByParts_product]

end Sys2Proof.Machine
end

section
/-! The reservation (45_atomics.md R364): every operation but those of LR.W and SC.W keeps it, and so does a step around
the instruction. -/

namespace Sys2Proof.Machine

/-! ### What keeps the reservation -/

/-- An instruction that answers a next state leaves the reservation. -/
abbrev KeepsResv (r : Host.Outcome State Fault Refusal) (s : State) : Prop := ∀ t, r = .next t → t.resv = s.resv

theorem AccessOnly.resv_eq {s t : State} (h : AccessOnly s t) : t.resv = s.resv := by
  rw [AccessOnly] at h
  rw [h]

theorem takeException_resv (e : Exc) (v : Word) (s : State) : (takeException e v s).resv = s.resv :=
  trapEntry_resv _ _ _ _ s

section
variable {s : State}

theorem next_keepsResv {t : State} (h : t.resv = s.resv) : KeepsResv (.next t) s := by
  rintro _ ⟨⟩
  exact h

theorem setReg_keepsResv (rd : Reg) (v : Word) : KeepsResv (.next (s.setReg rd v)) s :=
  next_keepsResv (State.setReg_resv s rd v)

theorem exception_keepsResv (e : Exc) (v : Word) : KeepsResv (.next (takeException e v s)) s :=
  next_keepsResv (takeException_resv e v s)

theorem branchIf_keepsResv (taken : Bool) (off : Word) : KeepsResv (branchIf taken off s) s := by
  cases taken <;> exact next_keepsResv rfl

theorem jump_keepsResv (rd : Reg) (target : Word) : KeepsResv (jump rd target s) s :=
  next_keepsResv (State.setReg_resv _ rd _)

theorem load_keepsResv (w : Width) (extend : Word → Word) (rd : Reg) (ea : Word) :
    KeepsResv (load w extend rd ea s) s := by
  intro t h
  rcases load_next h with ⟨v, u, -, hu, rfl⟩ | ⟨e, v, u, -, hu, rfl⟩
  · rw [State.setReg_resv, hu.toMem.resv_eq]
  · rw [takeException_resv, hu.toMem.resv_eq]

theorem store_keepsResv (w : Width) (v ea : Word) : KeepsResv (store w v ea s) s := by
  intro t h
  rcases store_next h with ⟨-, ht⟩ | ⟨e, a, u, -, hu, rfl⟩
  · exact ht.resv_eq
  · rw [takeException_resv, hu.resv_eq]

theorem amo_keepsResv (f : Word → Word → Word) (rd : Reg) (src ea : Word) : KeepsResv (amo f rd src ea s) s := by
  intro t h
  rcases amo_next h with ⟨pa, u, old, v, -, hu, -, -, rfl, -, rfl⟩ | ⟨e, u, hu, rfl⟩
  · rw [State.setReg_resv, busAfter_resv, busAfter_resv, hu.toMem.resv_eq]
  · rw [takeException_resv, hu.toMem.resv_eq]

theorem csrOp_keepsResv (n : CsrNum) (doWrite : Bool) (new : Word → Word) (rd : Reg) :
    KeepsResv (csrOp n doWrite new rd s) s := by
  intro t h
  rcases csrOp_next h with ⟨-, -, rfl⟩ | ⟨-, rfl⟩
  · rw [State.setReg_resv]
    cases doWrite
    · rfl
    · exact csrWrite_resv n _ s
  · exact takeException_resv _ _ s

theorem execMret_keepsResv : KeepsResv (execMret s) s := by
  unfold execMret
  split
  · exact next_keepsResv rfl
  · exact exception_keepsResv _ _

theorem execSret_keepsResv : KeepsResv (execSret s) s := by
  unfold execSret
  split
  · exact exception_keepsResv _ _
  · exact next_keepsResv rfl

theorem execSfenceVma_keepsResv (rs1 rs2 : Reg) : KeepsResv (execSfenceVma rs1 rs2 s) s := by
  unfold execSfenceVma
  split
  · exact exception_keepsResv _ _
  · split
    · exact exception_keepsResv _ _
    · exact next_keepsResv rfl

theorem execWfi_keepsResv : KeepsResv (execWfi s) s := by
  refine next_keepsResv ?_
  rcases wfiTail_cases s with ⟨r, -, h⟩ | ⟨j, -, -, h⟩ <;> rw [h]
  · rfl
  · rw [trapEntry_resv, commitPc_resv]

/-- Every instruction but LR.W and SC.W keeps the reservation. -/
theorem exec_keepsResv {i : Instr} (hi : touchesReservation i = false) : KeepsResv (exec i s) s := by
  cases i with
  | lui | auipc => exact setReg_keepsResv _ _
  | addi | slti | sltiu | xori | ori | andi | slli | srli | srai => exact setReg_keepsResv _ _
  | add | sub | sll | slt | sltu | xor | srl | sra | or | and => exact setReg_keepsResv _ _
  | mul | mulh | mulhsu | mulhu | div | divu | rem | remu => exact setReg_keepsResv _ _
  | cAddi4spn | cAddi | cLi | cAddi16sp | cLui | cMv | cAdd => exact setReg_keepsResv _ _
  | cSrli | cSrai | cAndi | cSub | cXor | cOr | cAnd | cSlli => exact setReg_keepsResv _ _
  | fence | fenceI | cNop => exact next_keepsResv rfl
  | beq | bne | blt | bge | bltu | bgeu | cBeqz | cBnez => exact branchIf_keepsResv _ _
  | jal | jalr | cJal | cJ | cJr | cJalr => exact jump_keepsResv _ _
  | lb | lh | lw | lbu | lhu | cLw | cLwsp => exact load_keepsResv _ _ _ _
  | sb | sh | sw | cSw | cSwsp => exact store_keepsResv _ _ _
  | lrW | scW => cases hi
  | amoSwapW => exact amo_keepsResv (fun _ src => src) _ _ _
  | amoAddW => exact amo_keepsResv (fun old src => old + src) _ _ _
  | amoXorW => exact amo_keepsResv (fun old src => old ^^^ src) _ _ _
  | amoAndW => exact amo_keepsResv (fun old src => old &&& src) _ _ _
  | amoOrW => exact amo_keepsResv (fun old src => old ||| src) _ _ _
  | amoMinW | amoMaxW | amoMinuW | amoMaxuW => exact amo_keepsResv _ _ _ _
  | ecall | ebreak | cEbreak => exact exception_keepsResv _ _
  | csrrw | csrrs | csrrc | csrrwi | csrrsi | csrrci => exact csrOp_keepsResv _ _ _ _
  | mret => exact execMret_keepsResv
  | sret => exact execSret_keepsResv
  | sfenceVma rs1 rs2 => exact execSfenceVma_keepsResv rs1 rs2
  | wfi => exact execWfi_keepsResv

/-! ### LR.W, SC.W and the step -/

/-- LR.W keeps the reservation where it raises; where it completes, its address passed the alignment check
(45_atomics.md R351, R352). -/
theorem loadReserved_resv {rd : Reg} {ea : Word} {t : State} (h : loadReserved rd ea s = .next t) :
    t.resv = s.resv ∨ (wordAligned ea = true ∧ t.resv = some ea ∧ t.result = s.result) := by
  cases hal : wordAligned ea
  · rw [loadReserved, hal] at h
    cases h
    exact .inl (takeException_resv _ _ s)
  · rcases loadReserved_next h with ⟨v, u, -, hu, rfl⟩ | ⟨e, v, u, hu, rfl⟩
    · obtain ⟨-, -, -, -, -, -, -, hres, -⟩ := hu.toMem.fields
      exact .inr ⟨rfl, State.setReg_resv _ _ _, (State.setReg_result _ _ _).trans hres⟩
    · exact .inl ((takeException_resv e v u).trans hu.toMem.resv_eq)

/-- SC.W clears the reservation whatever comes of it, but for a failed alignment check (45_atomics.md R351, R353). -/
theorem storeConditional_resv {rd : Reg} {v ea : Word} {t : State} (h : storeConditional rd v ea s = .next t) :
    t.resv = s.resv ∨ (wordAligned ea = true ∧ t.resv = none) := by
  cases hal : wordAligned ea
  · rw [storeConditional, hal] at h
    cases h
    exact .inl (takeException_resv _ _ s)
  · rcases storeConditional_next h with ⟨u, -, hu, -, rfl⟩ | ⟨-, rfl⟩ | ⟨e, a, u, hu, -, rfl⟩ | ⟨hmis, -⟩
    · exact .inr ⟨rfl, (State.setReg_resv u _ _).trans hu.resv_eq⟩
    · exact .inr ⟨rfl, State.setReg_resv _ _ _⟩
    · exact .inr ⟨rfl, (takeException_resv e a u).trans hu.resv_eq⟩
    · rw [hal] at hmis; cases hmis

theorem retire_resv (i : Instr) (s : State) : (retire i s).resv = s.resv := by
  rcases retire_cases i s with ⟨-, h⟩ | ⟨-, -, h⟩ <;> rw [h]
  rcases checkInterrupts_cases (commitPc s) with ⟨h, -⟩ | ⟨j, -, -, h⟩ <;> rw [h]
  · exact commitPc_resv s
  · rw [trapEntry_resv, commitPc_resv]

/-- A step keeps the reservation, or its instruction is LR.W or SC.W. -/
theorem step_resv {t : State} (h : step s = .next t) : t.resv = s.resv ∨
    ∃ f u i, fetch (beginStep s) = .ok f u ∧ decode f.raw = .ok i ∧ touchesReservation i = true := by
  rcases step_next h with ⟨e, v, u, -, hu, rfl⟩ | ⟨f, u, x, -, hu, -, rfl⟩ | ⟨f, u, i, w, hf, hu, hd, hx, rfl⟩ <;>
    have hresv : u.resv = s.resv := hu.toMem.resv_eq
  · exact .inl ((takeException_resv e v u).trans hresv)
  · exact .inl ((takeException_resv _ f.raw u).trans hresv)
  · cases hi : touchesReservation i
    · exact .inl ((retire_resv i w).trans ((exec_keepsResv hi w hx).trans hresv))
    · exact .inr ⟨f, u, i, hf, hd, hi⟩

end

/-- Settles O18: LR.W and SC.W by what each can do, and every other operation keeps the reservation. -/
theorem reservationChangesOnlyByLrSc : Obligations.ReservationChangesOnlyByLrSc := by
  refine ⟨fun i s t h => ?exec, fun _ _ => step_resv, State.injectInterrupts_resv, rfl⟩
  case exec =>
    cases hi : touchesReservation i
    · exact .inl (exec_keepsResv hi t h)
    · cases i with
      | lrW aq rl rd rs1 =>
        exact (loadReserved_resv h).imp_right fun ⟨hal, hresv, hres⟩ =>
          .inl ⟨aq, rl, rd, rs1, rfl, beq_iff_eq.1 hal, hresv, hres⟩
      | scW aq rl rd rs2 rs1 =>
        exact (storeConditional_resv h).imp_right fun ⟨hal, hresv⟩ =>
          .inr ⟨aq, rl, rd, rs2, rs1, rfl, beq_iff_eq.1 hal, hresv⟩
      | _ => cases hi

end Sys2Proof.Machine
end

section
/-! LR.W, SC.W and the AMOs at aligned addresses (45_atomics.md R351 to R362): each is its accesses and then the write of
`rd`, and faults where an access does. -/

namespace Sys2Proof.Machine

section
variable {s u : State} {ea v x d : Word} {w : Width} {op : BusOp} {pa : PAddr} {e : Exc} {rd : Reg} {kind : Access}
  {r : Option Word} {n : Nat}

/-! ### A part and what follows it -/

/-- A translation raises the page fault or the access fault of its access kind (21_mmu_tlb.md R157, R171). -/
theorem translate_raise_exc (h : translate ea kind s = .raise e x u) : e = pageExc kind ∨ e = accessExc kind := by
  rcases translate_cases ea kind s with ⟨pa, t, ht, -⟩ | ⟨e', t, ht, he, -⟩ <;> cases ht.symm.trans h
  exact he

/-- An instruction whose part raises in its translation. -/
theorem finish_part_raises {k : Word → State → Res Unit} (h : translate ea (opKind op) s = .raise e x u) :
    finish ((accessPart ea w op s).bind k) = .next (trapEntry false e.code ea s.pc u) := by
  obtain ⟨rfl, hu⟩ := translate_raise h
  rw [accessPart_raises h]
  exact finish_raise rfl hu.toMem

/-- An instruction whose part the bus rejects. -/
theorem finish_part_rejected {k : Word → State → Res Unit} (h : translate ea (opKind op) s = .ok pa u)
    (hs : (busAnswer u op pa w.bytes).status ≠ .ok) : finish ((accessPart ea w op s).bind k) =
      .next (trapEntry false (rejectCause (opKind op) (busAnswer u op pa w.bytes).status) ea s.pc
        (busAfter u op pa w.bytes)) := by
  obtain ⟨e, he, hc⟩ := accessPart_rejected h hs
  rw [he, ← hc]
  exact finish_raise rfl (rejected_translationOnly h hs).toMem

/-! ### What a completed atomic leaves -/

theorem AccessOnly.withResv (h : AccessOnly s u) (r : Option Word) :
    AccessOnly { s with resv := r } { u with resv := r } := by
  rw [AccessOnly] at h ⊢
  rw [h]

/-- The write of `rd` after a change of the reservation and accesses: all of it but memory. -/
theorem setReg_reserved (h : AccessOnly { s with resv := r } u) (rd : Reg) (v : Word) :
    (u.setReg rd v).resv = r ∧ RegWritten rd v s (u.setReg rd v) ∧ (u.setReg rd v).nextPc = s.nextPc
      ∧ SameControl s (u.setReg rd v) ∧ SameTlbBus u (u.setReg rd v) := by
  obtain ⟨hnext, hresv, hctl, htlb⟩ := setReg_control h rd v
  exact ⟨hresv, regWritten_setReg h.sameRegs rd rfl, hnext, hctl, htlb⟩

/-- A register write after a store keeps what was stored. -/
theorem Stored.setReg {bus : BusMap} (h : Stored bus pa n v s u) (rd : Reg) (d : Word) :
    Stored bus pa n v s (u.setReg rd d) := by
  simpa only [Stored, SameBytes, BytesStored, SameBytesBut, State.setReg_mem] using h

/-! ### LR.W and SC.W -/

/-- LR.W is a read, the reservation and the write of `rd` (45_atomics.md R352). -/
theorem loadReserved_aligned (hal : wordAligned ea = true) (rd : Reg) : loadReserved rd ea s =
    finish ((accessPart ea .word .read s).bind fun d t => .ok () (State.setReg { t with resv := some ea } rd d)) := by
  rw [loadReserved, if_pos hal, memRead, partsOf_wordAligned hal]
  rfl

/-- SC.W to the reserved address is a write with the reservation cleared, and the write of `rd` (45_atomics.md R353). -/
theorem storeConditional_reserved (hal : wordAligned ea = true) (hr : s.resv = some ea) (rd : Reg) (v : Word) :
    storeConditional rd v ea s =
      finish ((accessPart ea .word (.write v) { s with resv := none }).bind fun _ t => .ok () (t.setReg rd 0#32)) := by
  rw [storeConditional, if_pos hal, if_pos hr, memWrite, partsOf_wordAligned hal]
  simp only [accessPart, Res.bind_assoc, Res.ok_bind]

/-- SC.W elsewhere makes no access (45_atomics.md R353). -/
theorem storeConditional_unreserved (hal : wordAligned ea = true) (hr : s.resv ≠ some ea) (rd : Reg) (v : Word) :
    storeConditional rd v ea s = .next (State.setReg { s with resv := none } rd 1#32) := by
  rw [storeConditional, if_pos hal, if_neg hr]

theorem loadReserved_accepted (hal : wordAligned ea = true) (h : translate ea .R s = .ok pa u)
    (hs : (busAnswer u .read pa 4).status = .ok) (rd : Reg) : loadReserved rd ea s =
      .next (State.setReg { busAfter u .read pa 4 with resv := some ea } rd (readData u pa 4)) := by
  rw [loadReserved_aligned hal, accessPart_ok (op := .read) (w := .word) h hs]
  rfl

theorem storeConditional_accepted (hal : wordAligned ea = true) (hr : s.resv = some ea)
    (h : translate ea .W { s with resv := none } = .ok pa u) (hs : (busAnswer u (.write v) pa 4).status = .ok)
    (rd : Reg) : storeConditional rd v ea s = .next ((busAfter u (.write v) pa 4).setReg rd 0#32) := by
  rw [storeConditional_reserved hal hr, accessPart_ok (op := .write v) (w := .word) h hs]
  rfl

/-! ### The AMOs -/

/-- What an AMO does at an aligned address (45_atomics.md R354). -/
theorem amo_aligned (hal : wordAligned ea = true) (f : Word → Word → Word) (rd : Reg) (src : Word) :
    amo f rd src ea s = finish ((translate ea .W s).bind fun pa s =>
      (busRead .W ea pa .word s).bind fun old s =>
        (busWrite ea pa .word (f old src) s).bind fun _ s => .ok () (s.setReg rd old)) := by
  rw [amo, if_pos hal]

theorem busRead_accepted (hs : (busAnswer u .read pa w.bytes).status = .ok) :
    busRead kind ea pa w u = .ok (readData u pa w.bytes) (busAfter u .read pa w.bytes) := by
  rw [← busAnswer_data hs w.bytes_cases]
  exact ((busRead_cases kind ea pa w u).resolve_right fun h => h.1 hs).2

theorem busWrite_accepted (hs : (busAnswer u (.write v) pa w.bytes).status = .ok) :
    busWrite ea pa w v u = .ok () (busAfter u (.write v) pa w.bytes) :=
  ((busWrite_cases ea pa w v u).resolve_right fun h => h.1 hs).2

/-- A rejected call of an atomic is a store/AMO fault with the cause of its status (20_memory.md R103). -/
theorem rejected_store_code (status : BusStatus) :
    (if status = .align then misalignedExc .W else accessExc .W).code = rejectCause .W status :=
  rejected_code (.write 0#32) status

theorem amo_translation_raises (hal : wordAligned ea = true) (f : Word → Word → Word) (rd : Reg) (src : Word)
    (h : translate ea .W s = .raise e x u) : amo f rd src ea s = .next (trapEntry false e.code ea s.pc u) := by
  obtain ⟨rfl, hu⟩ := translate_raise h
  rw [amo_aligned hal, h]
  exact finish_raise rfl hu.toMem

section
variable (hal : wordAligned ea = true) (f : Word → Word → Word) (rd : Reg) (src : Word)
  (h : translate ea .W s = .ok pa u)
include hal h

theorem amo_read_rejected (hs : (busAnswer u .read pa 4).status ≠ .ok) : amo f rd src ea s =
    .next (trapEntry false (rejectCause .W (busAnswer u .read pa 4).status) ea s.pc (busAfter u .read pa 4)) := by
  have hread := ((busRead_cases .W ea pa .word u).resolve_left fun hr => hs hr.1).2
  rw [amo_aligned hal, h, Res.ok_bind, hread, ← rejected_store_code]
  exact finish_raise rfl (part_accessOnly h .read 4)

variable (hs : (busAnswer u .read pa 4).status = .ok)
include hs

/-- After an accepted read the AMO writes the new word, then `rd`. -/
theorem amo_read_accepted : amo f rd src ea s =
    finish ((busWrite ea pa .word (f (readData u pa 4) src) (busAfter u .read pa 4)).bind fun _ t =>
      .ok () (t.setReg rd (readData u pa 4))) := by
  rw [amo_aligned hal, h, Res.ok_bind, busRead_accepted (w := .word) hs]
  rfl

theorem amo_write_rejected {new : Word} (hn : new = f (readData u pa 4) src)
    (hw : (busAnswer (busAfter u .read pa 4) (.write new) pa 4).status ≠ .ok) : amo f rd src ea s =
      .next (trapEntry false (rejectCause .W (busAnswer (busAfter u .read pa 4) (.write new) pa 4).status) ea s.pc
        (busAfter (busAfter u .read pa 4) (.write new) pa 4)) := by
  have hwrite := ((busWrite_cases ea pa .word new (busAfter u .read pa 4)).resolve_left fun hr => hw hr.1).2
  rw [amo_read_accepted hal f rd src h hs, ← hn, hwrite, ← rejected_store_code]
  exact finish_raise rfl ((part_accessOnly h .read 4).trans (busAfter_accessOnly _ _ _ _))

theorem amo_accepted {new : Word} (hn : new = f (readData u pa 4) src)
    (hw : (busAnswer (busAfter u .read pa 4) (.write new) pa 4).status = .ok) : amo f rd src ea s =
      .next ((busAfter (busAfter u .read pa 4) (.write new) pa 4).setReg rd (readData u pa 4)) := by
  rw [amo_read_accepted hal f rd src h hs, ← hn, busWrite_accepted (w := .word) hw]
  rfl

end

end

/-- Settles O50: an aligned LR.W is a read and an aligned SC.W a write at the reserved address; each faults as that part
does, and SC.W cleared the reservation before it. -/
theorem loadReservedStoreConditional : Obligations.LoadReservedStoreConditional := by
  refine ⟨fun aq rl rd rs1 s hal => ?lr, fun aq rl rd rs2 rs1 s hal hm hr => ?sc, fun aq rl rd rs2 rs1 s hal hr => ?fails⟩ <;>
    replace hal : wordAligned (s.reg rs1) = true := beq_iff_eq.2 hal
  case lr =>
    have hx := loadReserved_aligned (s := s) hal rd
    refine ⟨fun e v u h => ?_, fun pa u h => ⟨fun hs => ?_, fun hs => ?_⟩⟩
    · obtain ⟨-, hu⟩ := translate_raise h
      exact ⟨hx.trans (finish_part_raises (op := .read) h), translate_raise_exc h, hu.toMem.resv_eq, hu.toMem.sameRegs⟩
    · have hw := part_accessOnly h .read 4
      exact ⟨hx.trans (finish_part_rejected (op := .read) (w := .word) h hs), hw.resv_eq, hw.sameRegs⟩
    · have hw := part_accessOnly h .read 4
      obtain ⟨hresv, hreg, hnext, hctl, htlb⟩ := setReg_reserved (hw.withResv (some (s.reg rs1))) rd (readData u pa 4)
      refine ⟨_, loadReserved_accepted hal h hs rd, hresv, hreg, hnext, hctl, htlb, fun b => ?_⟩
      rw [State.setReg_mem]
      exact ((translate_ok h).trans (busAfter_read u pa 4).toTranslation).sameBytes b
  case sc =>
    have hx := storeConditional_reserved hal hr rd (s.reg rs2)
    refine ⟨fun e v u h => ?_, fun pa u h => ⟨fun hs => ?_, fun hs => ?_⟩⟩
    · obtain ⟨-, hu⟩ := translate_raise h
      exact ⟨hx.trans (finish_part_raises (op := .write _) h), translate_raise_exc h, hu.toMem.resv_eq,
        hu.toMem.sameRegs⟩
    · have hw := rejected_translationOnly h hs
      exact ⟨hx.trans (finish_part_rejected (op := .write _) (w := .word) h hs), hw.toMem.resv_eq, hw.toMem.sameRegs,
        hw.sameBytes⟩
    · have hstored := part_done (s := { s with resv := none }) (op := .write (s.reg rs2)) hm (translate_ok h) hs
      obtain ⟨hresv, hreg, hnext, hctl, htlb⟩ := setReg_reserved (part_accessOnly h (.write (s.reg rs2)) 4) rd 0#32
      exact ⟨_, storeConditional_accepted hal hr h hs rd, hresv, hreg, Stored.setReg hstored rd 0#32, hnext, hctl, htlb⟩
  case fails =>
    obtain ⟨hresv, hreg, hnext, hctl, htlb⟩ := setReg_reserved (AccessOnly.refl { s with resv := none }) rd 1#32
    exact ⟨_, storeConditional_unreserved hal hr rd (s.reg rs2), hresv, hreg, hnext, hctl, htlb, fun b => by
      rw [State.setReg_mem]⟩

/-- An instruction and a function of the old word: the instruction is the AMO of a function, with the source operand in
place. -/
abbrev IsAmo (rd : Reg) (src ea : Word) (s : State) (c : Instr × (Word → Word)) : Prop :=
  ∃ f : Word → Word → Word, exec c.1 s = amo f rd src ea s ∧ ∀ old, c.2 old = f old src

/-- Settles O51: each of the nine is `amo` of its function, so its outcomes are those of the translation, the read and the
write. -/
theorem amoResults : Obligations.AmoResults := by
  intro aq rl rd rs2 rs1 s hal hm ea src amos c hc
  have hamos : ∀ c ∈ amos, IsAmo rd src ea s c := by
    simp only [amos, List.forall_mem_cons]
    exact ⟨⟨fun _ src => src, rfl, fun _ => rfl⟩, ⟨fun old src => old + src, rfl, fun _ => rfl⟩,
      ⟨fun old src => old ^^^ src, rfl, fun _ => rfl⟩, ⟨fun old src => old &&& src, rfl, fun _ => rfl⟩,
      ⟨fun old src => old ||| src, rfl, fun _ => rfl⟩, ⟨minSigned, rfl, fun _ => rfl⟩, ⟨maxSigned, rfl, fun _ => rfl⟩,
      ⟨minUnsigned, rfl, fun _ => rfl⟩, ⟨maxUnsigned, rfl, fun _ => rfl⟩, nofun⟩
  obtain ⟨f, hx, hf⟩ := hamos c hc
  replace hal : wordAligned ea = true := beq_iff_eq.2 hal
  rw [hx]
  refine ⟨fun e x u h => ?_, fun pa u h => ⟨fun hs => ?_, fun hs => ?_⟩⟩
  · obtain ⟨-, hu⟩ := translate_raise h
    exact ⟨amo_translation_raises hal f rd src h, translate_raise_exc h, hu.toMem.sameRegs, hu.sameBytes⟩
  · have hmid := rejected_translationOnly h hs
    exact ⟨amo_read_rejected hal f rd src h hs, hmid.toMem.sameRegs, hmid.sameBytes⟩
  have hmid : TranslationOnly s (busAfter u .read pa 4) := (translate_ok h).trans (busAfter_read u pa 4).toTranslation
  refine ⟨fun hw => ?_, fun hw => ?_⟩
  · have hlast := hmid.trans (busAfter_rejected hw).toTranslation
    exact ⟨amo_write_rejected hal f rd src h hs (hf _) hw, hlast.toMem.sameRegs, hlast.sameBytes⟩
  · have hstored := part_done (op := .write _) hm hmid hw
    obtain ⟨hresv, hreg, hnext, hctl, htlb⟩ :=
      setReg_reserved (r := s.resv) (hmid.toMem.trans (busAfter_accessOnly _ _ _ _)) rd (readData u pa 4)
    exact ⟨_, amo_accepted hal f rd src h hs (hf _) hw, hreg, Stored.setReg hstored rd _, hnext, hresv, hctl, htlb⟩

end Sys2Proof.Machine
end

section
/-! System instructions (46_system_csr.md R388 to R397): the returns from a trap bit by bit, what WFI's one interrupt
check takes, and the instructions that only trap, flush or do nothing. -/

namespace Sys2Proof.Machine

/-! ### Returning from a trap -/

/-- Clearing MPRV on a return to U-mode reaches bit 17 only. -/
theorem clearMPRV_getLsbD (p : Priv) (w : Word) (k : Nat) : (if p = .U then putMPRV w false else w).getLsbD k =
    if k = 17 ∧ p = .U then false else w.getLsbD k := by
  by_cases hp : p = .U
  · simp only [hp, if_true, and_true, putMPRV_getLsbD]
  · rw [if_neg hp, if_neg fun h => hp h.2]

/-- Every bit of `mstatus` after MRET (46_system_csr.md R388). -/
theorem returnFromM_mstatus_getLsbD (s : State) (k : Nat) : (returnFromM s).csr.mstatus.getLsbD k =
    if k = 17 ∧ (returnFromM s).priv = .U then false else if k = 12 then false else if k = 11 then false
    else if k = 7 then true else if k = 3 then statusMPIE s.csr.mstatus else s.csr.mstatus.getLsbD k := by
  refine (clearMPRV_getLsbD _ _ k).trans ?_
  rw [putMPP_getLsbD, putMPIE_getLsbD, putMIE_getLsbD]
  rfl

/-- Every bit of `mstatus` after SRET (46_system_csr.md R389). -/
theorem returnFromS_mstatus_getLsbD (s : State) (k : Nat) : (returnFromS s).csr.mstatus.getLsbD k =
    if k = 17 ∧ (returnFromS s).priv = .U then false else if k = 8 then false else if k = 5 then true
    else if k = 1 then statusSPIE s.csr.mstatus else s.csr.mstatus.getLsbD k := by
  refine (clearMPRV_getLsbD _ _ k).trans ?_
  rw [putSPP_getLsbD, putSPIE_getLsbD, putSIE_getLsbD]
  rfl

theorem exec_mret_eq {s : State} (h : s.priv = .M) : exec .mret s = .next (returnFromM s) := if_pos h

theorem exec_sret_eq {s : State} (h : s.priv ≠ .U) : exec .sret s = .next (returnFromS s) := if_neg h

/-- Settles O27: each claim about `mstatus` is about one of its bits after the return. -/
theorem trapReturns : Obligations.TrapReturns := by
  refine ⟨fun s hp hlegal => ?mret, fun s hp => ?sret⟩
  case mret =>
    have hbit := returnFromM_mstatus_getLsbD s
    refine ⟨_, exec_mret_eq hp, Priv.bits_ofBits hlegal, rfl, hbit 3, hbit 7,
      (statusMPP_eq_iff _ _).2 ⟨hbit 11, hbit 12⟩, (hbit 17).trans (if_congr (and_iff_right rfl) rfl rfl),
      fun k h3 h7 h11 h12 h17 => ?_, rfl⟩
    simp [hbit, h3, h7, h11, h12, h17]
  case sret =>
    have hbit := returnFromS_mstatus_getLsbD s
    refine ⟨_, exec_sret_eq hp, rfl, rfl, hbit 1, hbit 5, hbit 8,
      (hbit 17).trans (if_congr (and_iff_right rfl) rfl rfl), fun k h1 h5 h8 h17 => ?_, rfl⟩
    simp [hbit, h1, h5, h8, h17]

/-! ### WFI and its interrupt check -/

/-- The scan goes from the highest cause down (60_exceptions.md R514, R515). -/
theorem causeOrder_descending : causeOrder.Pairwise (· > ·) := by decide

/-- The scan finds the highest takeable cause: one it passes is not takeable, and one after the found cause is not the
highest. -/
theorem pendingInterrupt_of_highest {s : State} {i : Nat} (h : HighestTakeable s i) : pendingInterrupt s = some i := by
  obtain ⟨hi, htake, hnone⟩ := h
  have hmem : i ∈ causeOrder := (mem_causeOrder i).2 hi
  have htake : takeable s i = true := (takeable_iff s i).2 htake
  obtain ⟨j, hj⟩ : ∃ j, pendingInterrupt s = some j :=
    Option.isSome_iff_exists.1 (List.find?_isSome.2 ⟨i, hmem, htake⟩)
  obtain ⟨hjtake, before, after, hsplit, hpassed⟩ := List.find?_eq_some_iff_append.1 hj
  rw [hsplit, List.mem_append, List.mem_cons] at hmem
  obtain hbefore | rfl | hafter := hmem
  · simpa [htake] using hpassed i hbefore
  · exact hj
  · have hlt : i < j := by
      have hdesc := causeOrder_descending
      rw [hsplit] at hdesc
      exact List.rel_of_pairwise_cons (List.pairwise_append.1 hdesc).2.1 hafter
    have hj12 : j < 12 := (mem_causeOrder j).1 (List.mem_of_find?_eq_some hj)
    exact absurd ((takeable_iff s j).1 hjtake) (hnone j hj12 hlt)

/-- The scan finds nothing where no cause is takeable. -/
theorem pendingInterrupt_of_none {s : State} (h : ∀ i, i < 12 → ¬ CanTake s i) : pendingInterrupt s = none :=
  List.find?_eq_none.2 fun i hi => mt (takeable_iff s i).1 (h i ((mem_causeOrder i).1 hi))

theorem wfiTail_of_some {s : State} {i : Nat} (h : pendingInterrupt (commitPc s) = some i) :
    wfiTail s = trapEntry true i 0#32 s.nextPc (commitPc s) := by
  simp only [wfiTail, h]
  rfl

theorem wfiTail_of_none {s : State} (h : pendingInterrupt (commitPc s) = none) : wfiTail s =
    { commitPc s with result := if s.csr.mip &&& s.csr.mie = 0#32 then .idle else .noTrap } := by
  simp only [wfiTail, h]
  rfl

/-- Settles O29: WFI is its tail, by what the scan finds after the commit. -/
theorem waitForInterrupt : Obligations.WaitForInterrupt := fun _ =>
  ⟨fun _ h => congrArg Host.Outcome.next (wfiTail_of_some (pendingInterrupt_of_highest h)),
    fun h => congrArg Host.Outcome.next (wfiTail_of_none (pendingInterrupt_of_none h))⟩

/-! ### Environment calls, breakpoints and the privileged forms -/

/-- Settles O24: each of the three takes its exception at its own address. -/
theorem environmentCallAndBreak : Obligations.EnvironmentCallAndBreak := by
  refine fun s => ⟨?ecall, rfl, rfl⟩
  case ecall =>
    show Host.Outcome.next (trapEntry false (ecallExc s.priv).code 0#32 s.pc s) = _
    cases s.priv <;> rfl

/-- Settles O28: below its privilege each form is the illegal-instruction exception. -/
theorem privilegedFormsTrapBelow : Obligations.PrivilegedFormsTrapBelow := by
  refine fun s => ⟨fun h => if_neg h, fun h => if_pos h, fun rs1 rs2 h => ?sfence⟩
  case sfence =>
    by_cases hU : s.priv = .U
    · exact if_pos hU
    · exact (if_neg hU).trans (if_pos (h.resolve_left hU))

/-! ### SFENCE.VMA and the fences -/

theorem exec_sfenceVma_eq {s : State} (h : s.priv = .M ∨ s.priv = .S ∧ statusTVM s.csr.mstatus = false)
    (rs1 rs2 : Reg) : exec (.sfenceVma rs1 rs2) s = .next (tlbFlushAll s) := by
  have hU : s.priv ≠ .U := by rcases h with hp | ⟨hp, -⟩ <;> rw [hp] <;> decide
  have hS : ¬ (s.priv = .S ∧ statusTVM s.csr.mstatus = true) := by rcases h with hp | ⟨-, ht⟩ <;> simp [*]
  exact (if_neg hU).trans (if_neg hS)

/-- Settles O37: the flush drops every way of every table, and the fences answer the state they got. -/
theorem fencesAndTranslationFlush : Obligations.FencesAndTranslationFlush := by
  refine ⟨fun s rs1 rs2 h => ?flush, fun _ _ _ _ _ _ => rfl, fun _ _ _ _ => rfl⟩
  case flush =>
    exact ⟨_, exec_sfenceVma_eq h rs1 rs2, rfl, rfl, dropSets_getElem (fun _ => true) s.itlb,
      dropSets_getElem (fun _ => true) s.dtlb, dropWays_getElem (fun _ => true) s.stlb⟩

end Sys2Proof.Machine
end

section
/-! The six CSR instructions (46_system_csr.md R381 to R387): each is `CsrOp` with a new value of its own, so what they
do is what `CsrOp` does with and without a write, and where the gate stops it. -/

namespace Sys2Proof.Machine

section
variable {n : CsrNum} {s : State}

/-! ### `CsrOp` -/

/-- `CsrOp` where a check fails. -/
theorem csrOp_illegal {doWrite : Bool} (h : csrCheck n false s = false ∨ doWrite = true ∧ csrCheck n true s = false)
    (new : Word → Word) (rd : Reg) : csrOp n doWrite new rd s = .next (trapEntry false 2 s.rawInst s.pc s) := by
  unfold csrOp
  by_cases hread : csrCheck n false s = false
  · exact if_pos (by rw [hread]; rfl)
  · obtain ⟨hdo, hwrite⟩ := h.resolve_left hread
    exact (if_neg (by simpa using hread)).trans (if_pos (by rw [hdo, hwrite]; rfl))

/-- `CsrOp` that writes, where both checks pass. -/
theorem csrOp_writes (hread : csrCheck n false s = true) (hwrite : csrCheck n true s = true) (new : Word → Word)
    (rd : Reg) : csrOp n true new rd s = .next ((csrWrite n (new (csrRead n s)) s).setReg rd (csrRead n s)) := by
  simp [csrOp, hread, hwrite]

/-- `CsrOp` that writes nothing, where the read check passes. -/
theorem csrOp_reads (hread : csrCheck n false s = true) (new : Word → Word) (rd : Reg) :
    csrOp n false new rd s = .next (s.setReg rd (csrRead n s)) := by
  simp [csrOp, hread]

/-- The whole effect of a write and of the old value in `rd`. -/
theorem onlyCsr_csrWrite (rd : Reg) (v old : Word) :
    OnlyCsr rd old s (csrWrite n v s) ((csrWrite n v s).setReg rd old) := by
  have hreg : SameRegs s (csrWrite n v s) := State.reg_congr (csrWrite_x n v s)
  refine ⟨regWritten_setReg hreg rd rfl, ?_⟩
  simp [SameTlb, SameBytes]

/-- A form that writes has the effect of its new value. -/
theorem csrOp_onlyCsr (hread : csrCheck n false s = true) (hwrite : csrCheck n true s = true) {doWrite : Bool}
    (hdo : doWrite = true) (new : Word → Word) (rd : Reg) : ∃ t, csrOp n doWrite new rd s = .next t
      ∧ OnlyCsr rd (csrRead n s) s (csrWrite n (new (csrRead n s)) s) t :=
  ⟨_, hdo ▸ csrOp_writes hread hwrite new rd, onlyCsr_csrWrite rd _ _⟩

/-- A form that does not write has the effect of a register write. -/
theorem csrOp_onlyReg (hread : csrCheck n false s = true) (new : Word → Word) (rd : Reg) :
    ∃ t, csrOp n false new rd s = .next t ∧ OnlyReg rd (csrRead n s) s t :=
  ⟨_, csrOp_reads hread new rd, onlyReg_setReg rd _ s⟩

end

/-! ### The statements -/

/-- Settles O32: each form is `CsrOp` of its new value, and the set and clear forms write where their register number or
immediate is not 0. -/
theorem csrInstructionResults : Obligations.CsrInstructionResults := by
  intro rd n s hread
  refine ⟨fun hwrite => ⟨fun rs1 => ?csrrw, fun rs1 h => ?csrrs, fun rs1 h => ?csrrc, fun uimm => ?csrrwi,
    fun uimm h => ?csrrsi, fun uimm h => ?csrrci⟩, ?noWrite⟩
  case csrrw => exact csrOp_onlyCsr hread hwrite rfl (csrSwap (s.reg rs1)) rd
  case csrrs => exact csrOp_onlyCsr hread hwrite (bne_iff_ne.2 h) (csrSet (s.reg rs1)) rd
  case csrrc => exact csrOp_onlyCsr hread hwrite (bne_iff_ne.2 h) (csrClear (s.reg rs1)) rd
  case csrrwi => exact csrOp_onlyCsr hread hwrite rfl (csrSwap (uimmWord uimm)) rd
  case csrrsi => exact csrOp_onlyCsr hread hwrite (bne_iff_ne.2 h) (csrSet (uimmWord uimm)) rd
  case csrrci => exact csrOp_onlyCsr hread hwrite (bne_iff_ne.2 h) (csrClear (uimmWord uimm)) rd
  case noWrite =>
    have hreads := fun new => csrOp_onlyReg hread new rd
    exact ⟨hreads _, hreads _, hreads _, hreads _⟩

/-- Settles O33: a failed read check stops all six forms, a failed write check those that write. -/
theorem csrGateFailureTraps : Obligations.CsrGateFailureTraps := by
  refine fun rd n s => ⟨fun hread rs1 uimm => ?read, fun hwrite => ?write⟩
  case read =>
    have hstop := fun doWrite new => csrOp_illegal (doWrite := doWrite) (.inl hread) new rd
    exact ⟨hstop _ _, hstop _ _, hstop _ _, hstop _ _, hstop _ _, hstop _ _⟩
  case write =>
    have hstop := fun doWrite (hdo : doWrite = true) new => csrOp_illegal (.inr ⟨hdo, hwrite⟩) new rd
    exact ⟨fun _ => hstop _ rfl _, fun _ => hstop _ rfl _,
      fun _ h => ⟨hstop _ (bne_iff_ne.2 h) _, hstop _ (bne_iff_ne.2 h) _⟩,
      fun _ h => ⟨hstop _ (bne_iff_ne.2 h) _, hstop _ (bne_iff_ne.2 h) _⟩⟩

end Sys2Proof.Machine
end

section
/-! Encoding and decoding undo each other (30_encoding.md R192, 48_compressed.md R432 to R459): the words of each format
from the slices that the decoder reads, then each decoder. -/

namespace Sys2Proof

open BitVec (extractLsb'_append_eq_of_le extractLsb'_append_eq_of_add_le extractLsb'_eq_self
  extractLsb'_append_extractLsb'_eq_extractLsb')

/-- Settles O1: `decode_encode`, for every instruction. -/
theorem decodeOfEncode : Obligations.DecodeOfEncode := fun _ hi => decode_encode hi

/-- Settles O4: the decoder is run on each of the twelve words. -/
theorem exampleWordsDecode : Obligations.ExampleWordsDecode :=
  ⟨rfl, rfl, rfl, rfl, rfl, rfl, rfl, rfl, rfl, rfl, rfl, rfl⟩

/-! ### The 32-bit formats from their slices (R192) -/

section
variable {w : Word} {opcode funct7 : BitVec 7} {funct3 : BitVec 3} {funct5 : BitVec 5}

theorem encU_slices (hop : w.extractLsb' 0 7 = opcode) :
    encU (w.extractLsb' 12 20) (w.extractLsb' 7 5) opcode = w := by
  subst hop
  simp (disch := decide) only [encU, extractLsb'_append_extractLsb'_eq_extractLsb', extractLsb'_eq_self]

theorem encJ_slices (hop : w.extractLsb' 0 7 = 0x6F#7) : encJ (jumpOffset w) (w.extractLsb' 7 5) = w := by
  simp (disch := decide) only [encJ, jumpOffset, ← hop, extractLsb'_append_eq_of_le, extractLsb'_append_eq_of_add_le,
    Nat.reduceSub, extractLsb'_append_extractLsb'_eq_extractLsb', extractLsb'_eq_self]

theorem encI_slices (hop : w.extractLsb' 0 7 = opcode) (h3 : w.extractLsb' 12 3 = funct3) :
    encI (w.extractLsb' 20 12) (w.extractLsb' 15 5) funct3 (w.extractLsb' 7 5) opcode = w := by
  subst hop h3
  simp (disch := decide) only [encI, extractLsb'_append_extractLsb'_eq_extractLsb', extractLsb'_eq_self]

theorem encS_slices (hop : w.extractLsb' 0 7 = opcode) (h3 : w.extractLsb' 12 3 = funct3) :
    encS (w.extractLsb' 25 7 ++ w.extractLsb' 7 5) (w.extractLsb' 20 5) (w.extractLsb' 15 5) funct3 opcode = w := by
  subst hop h3
  simp (disch := decide) only [encS, extractLsb'_append_eq_of_le, extractLsb'_append_eq_of_add_le, Nat.reduceSub,
    extractLsb'_append_extractLsb'_eq_extractLsb', extractLsb'_eq_self]

theorem encB_slices (hop : w.extractLsb' 0 7 = 0x63#7) (h3 : w.extractLsb' 12 3 = funct3) :
    encB (branchOffset w) (w.extractLsb' 20 5) (w.extractLsb' 15 5) funct3 = w := by
  subst h3
  simp (disch := decide) only [encB, branchOffset, ← hop, extractLsb'_append_eq_of_le,
    extractLsb'_append_eq_of_add_le, Nat.reduceSub, extractLsb'_append_extractLsb'_eq_extractLsb', extractLsb'_eq_self]

theorem encR_slices (hop : w.extractLsb' 0 7 = opcode) (h3 : w.extractLsb' 12 3 = funct3)
    (h7 : w.extractLsb' 25 7 = funct7) :
    encR funct7 (w.extractLsb' 20 5) (w.extractLsb' 15 5) funct3 (w.extractLsb' 7 5) opcode = w := by
  subst hop h3 h7
  simp (disch := decide) only [encR, extractLsb'_append_extractLsb'_eq_extractLsb', extractLsb'_eq_self]

/-- A slice of one bit is that bit. -/
theorem ofBool_getLsbD {n : Nat} (x : BitVec n) (k : Nat) : BitVec.ofBool (x.getLsbD k) = x.extractLsb' k 1 := by
  have hbit : ∀ b : BitVec 1, BitVec.ofBool (b == 1#1) = b := by decide
  rw [BitVec.getLsbD_eq_extractLsb', hbit]

theorem encAmo_slices (hop : w.extractLsb' 0 7 = 0x2F#7) (h3 : w.extractLsb' 12 3 = 2#3)
    (h5 : w.extractLsb' 27 5 = funct5) : encAmo funct5 (w.getLsbD 26) (w.getLsbD 25) (w.extractLsb' 20 5)
      (w.extractLsb' 15 5) (w.extractLsb' 7 5) = w := by
  simp (disch := decide) only [encAmo, ofBool_getLsbD, ← hop, ← h3, ← h5,
    extractLsb'_append_extractLsb'_eq_extractLsb', extractLsb'_eq_self]

/-! ### 32-bit words -/

variable {i : Instr}

theorem decodeLoad_encodes (hop : w.extractLsb' 0 7 = 0x03#7) (h : decodeLoad w = .ok i) : encode i = w := by
  unfold decodeLoad at h
  split at h <;> cases h <;> exact encI_slices hop ‹_›

theorem decodeStore_encodes (hop : w.extractLsb' 0 7 = 0x23#7) (h : decodeStore w = .ok i) : encode i = w := by
  unfold decodeStore at h
  split at h <;> cases h <;> exact encS_slices hop ‹_›

theorem decodeBranch_encodes (hop : w.extractLsb' 0 7 = 0x63#7) (h : decodeBranch w = .ok i) : encode i = w := by
  unfold decodeBranch at h
  split at h <;> cases h <;> exact encB_slices hop ‹_›

theorem decodeOpImm_encodes (hop : w.extractLsb' 0 7 = 0x13#7) (h : decodeOpImm w = .ok i) : encode i = w := by
  unfold decodeOpImm at h
  dsimp only at h
  split at h
  case h_2 => split at h <;> cases h; exact encR_slices hop ‹_› ‹_›
  case h_6 =>
    split at h
    · cases h; exact encR_slices hop ‹_› ‹_›
    · split at h <;> cases h; exact encR_slices hop ‹_› ‹_›
  case h_8 h0 h1 h2 h3 h4 h5 h6 => cases h; exact encI_slices hop (eq_seven_of_ne h0 h1 h2 h3 h4 h5 h6)
  all_goals cases h; exact encI_slices hop ‹_›

theorem decodeOpBase_encodes (hop : w.extractLsb' 0 7 = 0x33#7) (h7 : w.extractLsb' 25 7 = 0x00#7) :
    encode (decodeOpBase (w.extractLsb' 12 3) (w.extractLsb' 7 5) (w.extractLsb' 15 5) (w.extractLsb' 20 5)) = w := by
  unfold decodeOpBase
  split
  case h_8 h0 h1 h2 h3 h4 h5 h6 => exact encR_slices hop (eq_seven_of_ne h0 h1 h2 h3 h4 h5 h6) h7
  all_goals exact encR_slices hop ‹_› h7

theorem decodeOpMul_encodes (hop : w.extractLsb' 0 7 = 0x33#7) (h7 : w.extractLsb' 25 7 = 0x01#7) :
    encode (decodeOpMul (w.extractLsb' 12 3) (w.extractLsb' 7 5) (w.extractLsb' 15 5) (w.extractLsb' 20 5)) = w := by
  unfold decodeOpMul
  split
  case h_8 h0 h1 h2 h3 h4 h5 h6 => exact encR_slices hop (eq_seven_of_ne h0 h1 h2 h3 h4 h5 h6) h7
  all_goals exact encR_slices hop ‹_› h7

theorem decodeOp_encodes (hop : w.extractLsb' 0 7 = 0x33#7) (h : decodeOp w = .ok i) : encode i = w := by
  unfold decodeOp at h
  dsimp only at h
  split at h <;> rename_i h7
  · cases h; exact decodeOpBase_encodes hop h7
  · cases h; exact decodeOpMul_encodes hop h7
  · split at h <;> cases h <;> exact encR_slices hop ‹_› h7
  · cases h

theorem decodeMiscMem_encodes (hop : w.extractLsb' 0 7 = 0x0F#7) (h : decodeMiscMem w = .ok i) : encode i = w := by
  have himm : w.extractLsb' 28 4 ++ w.extractLsb' 24 4 ++ w.extractLsb' 20 4 = w.extractLsb' 20 12 := by
    simp (disch := decide) only [extractLsb'_append_extractLsb'_eq_extractLsb']
  unfold decodeMiscMem at h
  split at h <;> cases h
  · rw [encode, himm]; exact encI_slices hop ‹_›
  · exact encI_slices hop ‹_›

theorem decodeSystem_encodes (hop : w.extractLsb' 0 7 = 0x73#7) (h : decodeSystem w = .ok i) : encode i = w := by
  unfold decodeSystem at h
  dsimp only at h
  split at h
  case h_1 h3 =>
    split_ifs at h with hecall hebreak hsret hmret hwfi hsfence <;> cases h
    · exact hecall.symm
    · exact hebreak.symm
    · exact hsret.symm
    · exact hmret.symm
    · exact hwfi.symm
    · obtain ⟨h7, hrd⟩ := hsfence
      rw [encode, ← hrd]
      exact encR_slices hop h3 h7
  all_goals cases h <;> exact encI_slices hop ‹_›

theorem decodeAmo_encodes (hop : w.extractLsb' 0 7 = 0x2F#7) (h : decodeAmo w = .ok i) : encode i = w := by
  unfold decodeAmo at h
  dsimp only at h
  split at h
  · rename_i h3
    split at h
    case h_3 h5 =>
      split at h
      · rename_i hrs2
        cases h
        rw [encode, ← hrs2]
        exact encAmo_slices hop h3 h5
      · cases h
    all_goals cases h <;> exact encAmo_slices hop h3 ‹_›
  · cases h

theorem decode32_encodes (h : decode32 w = .ok i) : encode i = w := by
  unfold decode32 at h
  dsimp only at h
  split at h <;> rename_i hop
  · exact decodeLoad_encodes hop h
  · exact decodeMiscMem_encodes hop h
  · exact decodeOpImm_encodes hop h
  · cases h; exact encU_slices hop
  · exact decodeStore_encodes hop h
  · exact decodeAmo_encodes hop h
  · exact decodeOp_encodes hop h
  · cases h; exact encU_slices hop
  · exact decodeBranch_encodes hop h
  · split at h <;> cases h; exact encI_slices hop ‹_›
  · cases h; exact encJ_slices hop
  · exact decodeSystem_encodes hop h
  · cases h

end

/-! ### The compressed formats from their slices (R205, R432 to R459) -/

section
variable {c : Half} {q : BitVec 2} {funct3 : BitVec 3} {funct4 : BitVec 4} {funct6 : BitVec 6} {low5 : BitVec 5}

theorem slice12_zero (h : ¬ c.getLsbD 12 = true) : c.extractLsb' 12 1 = 0#1 := by
  rw [← ofBool_getLsbD, Bool.eq_false_iff.2 h]; rfl

theorem slice12_one (h : c.getLsbD 12 = true) : c.extractLsb' 12 1 = 1#1 := by
  rw [← ofBool_getLsbD, h]; rfl

theorem encCI_slices (hq : c.extractLsb' 0 2 = q) (h3 : c.extractLsb' 13 3 = funct3) :
    encCI funct3 (c.extractLsb' 12 1 ++ c.extractLsb' 2 5) (c.extractLsb' 7 5) q = c := by
  subst hq h3
  simp (disch := decide) only [encCI, extractLsb'_append_eq_of_le, extractLsb'_append_eq_of_add_le, Nat.reduceSub,
    extractLsb'_append_extractLsb'_eq_extractLsb', extractLsb'_eq_self]

theorem encCMem_slices (hq : c.extractLsb' 0 2 = 0#2) (h3 : c.extractLsb' 13 3 = funct3) :
    encCMem funct3 (c.extractLsb' 5 1 ++ c.extractLsb' 10 3 ++ c.extractLsb' 6 1 ++ 0#2) (c.extractLsb' 7 3)
      (c.extractLsb' 2 3) = c := by
  subst h3
  simp (disch := decide) only [encCMem, extractLsb'_append_eq_of_le, extractLsb'_append_eq_of_add_le, Nat.reduceSub,
    ← hq, extractLsb'_append_extractLsb'_eq_extractLsb', extractLsb'_eq_self]

theorem encCJ_slices (hq : c.extractLsb' 0 2 = 1#2) (h3 : c.extractLsb' 13 3 = funct3) :
    encCJ funct3 (cjOffset c) = c := by
  subst h3
  simp (disch := decide) only [encCJ, cjOffset, extractLsb'_append_eq_of_le, extractLsb'_append_eq_of_add_le,
    Nat.reduceSub, ← hq, extractLsb'_append_extractLsb'_eq_extractLsb', extractLsb'_eq_self]

theorem encCB_slices (hq : c.extractLsb' 0 2 = 1#2) (h3 : c.extractLsb' 13 3 = funct3) :
    encCB funct3 (c.extractLsb' 7 3) (cbOffset c) = c := by
  subst h3
  simp (disch := decide) only [encCB, cbOffset, extractLsb'_append_eq_of_le, extractLsb'_append_eq_of_add_le,
    Nat.reduceSub, ← hq, extractLsb'_append_extractLsb'_eq_extractLsb', extractLsb'_eq_self]

/-- The format CA, whose `funct6` is `c[15:13] : c[12] : c[11:10]`. -/
theorem encCA_slices (hq : c.extractLsb' 0 2 = 1#2)
    (h6 : c.extractLsb' 13 3 ++ c.extractLsb' 12 1 ++ c.extractLsb' 10 2 = funct6) (hlow : c.extractLsb' 2 5 = low5) :
    encCA funct6 (c.extractLsb' 7 3) low5 = c := by
  subst h6 hlow
  simp (disch := decide) only [encCA, ← hq, extractLsb'_append_extractLsb'_eq_extractLsb', extractLsb'_eq_self]

/-- The operation and the second register of the two-register forms. -/
theorem pairSlices {k : BitVec 2} (hk : c.extractLsb' 5 2 = k) : c.extractLsb' 2 5 = k ++ c.extractLsb' 2 3 := by
  subst hk
  simp (disch := decide) only [extractLsb'_append_extractLsb'_eq_extractLsb']

/-- The format CR, whose `funct4` is `c[15:13] : c[12]`. -/
theorem encCR_slices (hq : c.extractLsb' 0 2 = 2#2) (h4 : c.extractLsb' 13 3 ++ c.extractLsb' 12 1 = funct4) :
    encCR funct4 (c.extractLsb' 7 5) (c.extractLsb' 2 5) = c := by
  subst h4
  simp (disch := decide) only [encCR, ← hq, extractLsb'_append_extractLsb'_eq_extractLsb', extractLsb'_eq_self]

/-! ### Halfwords -/

variable {i : Instr}

theorem decodeQuadrant0_encodes (hq : c.extractLsb' 0 2 = 0#2) (h : decodeQuadrant0 c = .ok i) :
    encode i = ofHalf c := by
  unfold decodeQuadrant0 at h
  dsimp only at h
  split at h <;> rename_i h3
  · split at h <;> cases h
    refine congrArg ofHalf ?_
    simp (disch := decide) only [extractLsb'_append_eq_of_le, extractLsb'_append_eq_of_add_le, Nat.reduceSub, ← hq,
      ← h3, extractLsb'_append_extractLsb'_eq_extractLsb', extractLsb'_eq_self]
  · cases h; exact congrArg ofHalf (encCMem_slices hq h3)
  · cases h; exact congrArg ofHalf (encCMem_slices hq h3)
  · cases h

theorem decodeCArith_encodes (hq : c.extractLsb' 0 2 = 1#2) (h3 : c.extractLsb' 13 3 = 4#3)
    (h : decodeCArith c = .ok i) : encode i = ofHalf c := by
  unfold decodeCArith at h
  dsimp only at h
  split at h
  case h_1 h2 | h_2 h2 =>
    split at h <;> cases h
    exact congrArg ofHalf (encCA_slices hq (by rw [h3, slice12_zero ‹_›, h2]; rfl) rfl)
  case h_3 h2 =>
    cases h
    refine congrArg ofHalf ?_
    simp (disch := decide) only [extractLsb'_append_eq_of_le, extractLsb'_append_eq_of_add_le, Nat.reduceSub, ← hq,
      ← h3, ← h2, extractLsb'_append_extractLsb'_eq_extractLsb', extractLsb'_eq_self]
  case h_4 h0 h1 h2 =>
    split at h
    · cases h
    have h6 : c.extractLsb' 13 3 ++ c.extractLsb' 12 1 ++ c.extractLsb' 10 2 = 0b100011#6 := by
      rw [h3, slice12_zero ‹_›, eq_three_of_ne h0 h1 h2]; rfl
    split at h <;> cases h
    case h_4 k0 k1 k2 => exact congrArg ofHalf (encCA_slices hq h6 (pairSlices (eq_three_of_ne k0 k1 k2)))
    all_goals exact congrArg ofHalf (encCA_slices hq h6 (pairSlices ‹_›))

theorem decodeQuadrant1_encodes (hq : c.extractLsb' 0 2 = 1#2) (h : decodeQuadrant1 c = .ok i) :
    encode i = ofHalf c := by
  unfold decodeQuadrant1 at h
  dsimp only at h
  split at h
  case h_1 h3 =>
    split at h <;> cases h
    · rename_i hrd; rw [encode, ← hrd]; exact congrArg ofHalf (encCI_slices hq h3)
    · exact congrArg ofHalf (encCI_slices hq h3)
  case h_2 h3 => cases h; exact congrArg ofHalf (encCJ_slices hq h3)
  case h_3 h3 => cases h; exact congrArg ofHalf (encCI_slices hq h3)
  case h_4 h3 =>
    split_ifs at h with himm hrd <;> cases h
    · refine congrArg ofHalf ?_
      simp (disch := decide) only [extractLsb'_append_eq_of_le, extractLsb'_append_eq_of_add_le, Nat.reduceSub, ← hq,
        ← h3, ← hrd, extractLsb'_append_extractLsb'_eq_extractLsb', extractLsb'_eq_self]
    · exact congrArg ofHalf (encCI_slices hq h3)
  case h_5 h3 => exact decodeCArith_encodes hq h3 h
  case h_6 h3 => cases h; exact congrArg ofHalf (encCJ_slices hq h3)
  case h_7 h3 => cases h; exact congrArg ofHalf (encCB_slices hq h3)
  case h_8 h0 h1 h2 h3 h4 h5 h6 =>
    cases h; exact congrArg ofHalf (encCB_slices hq (eq_seven_of_ne h0 h1 h2 h3 h4 h5 h6))

theorem decodeQuadrant2_encodes (hq : c.extractLsb' 0 2 = 2#2) (h : decodeQuadrant2 c = .ok i) :
    encode i = ofHalf c := by
  unfold decodeQuadrant2 at h
  dsimp only at h
  split at h
  case h_1 h3 =>
    split at h <;> cases h
    rw [encode, ← slice12_zero ‹_›]
    exact congrArg ofHalf (encCI_slices hq h3)
  case h_2 h3 =>
    split at h <;> cases h
    refine congrArg ofHalf ?_
    simp (disch := decide) only [extractLsb'_append_eq_of_le, extractLsb'_append_eq_of_add_le, Nat.reduceSub, ← hq,
      ← h3, extractLsb'_append_extractLsb'_eq_extractLsb', extractLsb'_eq_self]
  case h_3 h3 =>
    have h8 : ¬ c.getLsbD 12 = true → encCR 8#4 (c.extractLsb' 7 5) (c.extractLsb' 2 5) = c := fun hb =>
      encCR_slices hq (by rw [h3, slice12_zero hb]; rfl)
    have h9 : c.getLsbD 12 = true → encCR 9#4 (c.extractLsb' 7 5) (c.extractLsb' 2 5) = c := fun hb =>
      encCR_slices hq (by rw [h3, slice12_one hb]; rfl)
    split_ifs at h with hb hrs2 hrd hrs2 hrd <;> cases h
    · rw [← h9 hb, hrs2, hrd]; rfl
    · rw [encode, ← hrs2, h9 hb]
    · rw [encode, h9 hb]
    · rw [encode, ← hrs2, h8 hb]
    · rw [encode, h8 hb]
  case h_4 h3 =>
    cases h
    refine congrArg ofHalf ?_
    simp (disch := decide) only [extractLsb'_append_eq_of_le, extractLsb'_append_eq_of_add_le, Nat.reduceSub, ← hq,
      ← h3, extractLsb'_append_extractLsb'_eq_extractLsb', extractLsb'_eq_self]
  case h_5 => cases h

theorem decode16_encodes (h : decode16 c = .ok i) : encode i = ofHalf c := by
  unfold decode16 at h
  split at h <;> rename_i hq
  · exact decodeQuadrant0_encodes hq h
  · exact decodeQuadrant1_encodes hq h
  · exact decodeQuadrant2_encodes hq h
  · cases h

end

/-! ### The statement -/

/-- The low halfword, as the undecoded bits of a compressed instruction. -/
theorem ofHalf_low (raw : Word) : ofHalf (raw.extractLsb' 0 16) = raw &&& 0x0000FFFF#32 := by
  rw [ofHalf, ← BitVec.setWidth_eq_extractLsb' (by decide)]
  exact (congrArg Machine.Fetched.raw (Machine.shortUnit_eq raw)).symm

/-- The bits that decode are the encoding of what they decode to: the word, or the low halfword. -/
theorem decode_encodes {raw : Word} {i : Instr} (h : decode raw = .ok i) :
    encode i = if isLong raw then raw else ofHalf (raw.extractLsb' 0 16) := by
  cases hl : isLong raw <;> rw [decode, hl] at h
  · exact decode16_encodes h
  · exact decode32_encodes h

/-- The low two bits say the length of what decodes (R190). -/
theorem decode_length {raw : Word} {i : Instr} (h : decode raw = .ok i) : isLong raw = !i.compressed := by
  have hlow : isLong (ofHalf (raw.extractLsb' 0 16)) = isLong raw := by
    rw [ofHalf, ← BitVec.setWidth_eq_extractLsb' (by decide), isLong_half]
  rw [← isLong_encode, decode_encodes h]
  split
  · rfl
  · exact hlow.symm

/-- Settles O2: the word or halfword that decodes is the encoding of what it decodes to. -/
theorem encodeOfDecode : Obligations.EncodeOfDecode := by
  refine fun raw i h => ⟨decode_wf h, ?_⟩
  rw [decode_encodes h, decode_length h, ofHalf_low]
  cases i.compressed <;> rfl

end Sys2Proof
end

section
/-! Invariants of the step: canonical memory, the state at reset, and no state that is stuck (60_exceptions.md R506). -/

namespace Sys2Proof.Machine

/-- Settles O8: every move of a step keeps memory canonical. -/
theorem stepKeepsMemoryCanonical : Obligations.StepKeepsMemoryCanonical :=
  fun _ _ hs h => memoryCanonical_invariant.step h hs

/-- Settles O11: it is the state after a Reset, with no byte of memory written. -/
theorem resetIsLegal : Obligations.ResetIsLegal := reset_legal (m := []) rfl Config.bus 0

/-! ### No state is stuck -/

section
variable {s : State}

/-- A part of an access is never refused: its translation raises or answers an address, and the bus answers. -/
theorem readPart_ne_refuse (a : Word) (w : Width) (kind : Access) (s : State) (r : Refusal) :
    readPart a w kind s ≠ .refuse r := by
  rcases readPart_cases a w kind s with ⟨pa, t, -, -, -, h⟩ | ⟨e, t, h, -⟩ <;> rw [h] <;> nofun

/-- A fetch at an even pc is never split into parts that include one of 3 bytes (40_step.md R231). -/
theorem fetch_ne_refuse (h0 : s.pc.getLsbD 0 = false) (r : Refusal) : fetch s ≠ .refuse r := by
  intro h
  rcases hp : readPart s.pc (fetchWidth s) .X s with ⟨x, t⟩ | ⟨e, v, t⟩ | q
  · cases h1 : s.pc.getLsbD 1
    · rw [fetchWidth_word h1] at hp
      cases (fetch_word h0 h1 hp).symm.trans h
    · rw [fetchWidth_half h1] at hp
      cases hl : isLong x
      · cases (fetch_short h0 h1 hp hl).symm.trans h
      · rw [fetch_long h0 h1 hp hl] at h
        rcases Res.bind_eq_refuse.1 h with h | ⟨_, _, -, h⟩
        · exact readPart_ne_refuse _ _ _ _ _ h
        · cases h
  · cases (fetch_raises_first h0 hp).symm.trans h
  · exact readPart_ne_refuse _ _ _ _ _ hp

/-- The access of an instruction depends on the registers only. -/
theorem accessOf_congr {t : State} (h : t.x = s.x) (i : Instr) : accessOf t i = accessOf s i := by
  have hreg := State.reg_congr h
  cases i <;> simp only [accessOf, hreg]

end

/-- Settles O14: the fetch brings bits or raises, and an instruction is refused by its address alone. -/
theorem stepAnswersOrIsThreeBytePart : Obligations.StepAnswersOrIsThreeBytePart := by
  intro s h0
  rcases hf : fetch (beginStep s) with ⟨f, u⟩ | ⟨e, v, u⟩ | r
  · rcases hd : decode f.raw with x | i
    · exact .inl ⟨_, step_of_illegal hf hd⟩
    · rcases hx : exec i (arm f u) with t | ⟨⟨⟩⟩ | r <;> rw [arm_of_fetch hf] at hx
      · exact .inl ⟨_, step_of_exec_next hf hd hx⟩
      · obtain ⟨rfl, op, a, ha, hoff⟩ := (refusedIffThreeBytePart i _ r).1 hx
        have hau : accessOf u i = some (.word, op, a) := (accessOf_congr rfl i).trans ha
        exact .inr ⟨step_of_exec_refused hf hd hx, f, u, i, op, a, rfl, hd, hau, hoff⟩
  · exact .inl ⟨_, (step_of_fetch_raise hf).1⟩
  · exact absurd hf (fetch_ne_refuse (s := beginStep s) h0 r)

end Sys2Proof.Machine
end

section
/-! Traps (60_exceptions.md R502 to R516): trap entry by its destination, bit by bit of `mstatus`; the interrupt check;
the host's injection; and that privilege rises only into a handler. -/

namespace Sys2Proof.Machine

/-! ### The interrupt check and the injection -/

/-- Settles O25: the check takes what the scan finds. -/
theorem interruptCheckTakesHighest : Obligations.InterruptCheckTakesHighest := by
  refine fun s => ⟨fun i h => ?takes, fun h => ?nothing⟩
  case takes => rw [checkInterrupts, pendingInterrupt_of_highest h]; rfl
  case nothing => rw [checkInterrupts, pendingInterrupt_of_none h]

/-- Every bit of `mip` after an injection (60_exceptions.md R512). -/
theorem injectInterrupts_mip_getLsbD (s : State) (sw timer ext : Bool) (k : Nat) :
    (s.injectInterrupts sw timer ext).csr.mip.getLsbD k =
      if k = 11 then ext else if k = 7 then timer else if k = 3 then sw else s.csr.mip.getLsbD k := by
  refine (putBit_getLsbD _ _ _ (by decide)).trans (if_congr Iff.rfl rfl ?_)
  refine (putBit_getLsbD _ _ _ (by decide)).trans (if_congr Iff.rfl rfl ?_)
  exact putBit_getLsbD _ _ _ (by decide)

/-- Settles O26: each claim is about one bit of `mip` after the injection. -/
theorem injectionOverwritesThreeBits : Obligations.InjectionOverwritesThreeBits := by
  intro s sw timer ext
  have hbit := injectInterrupts_mip_getLsbD s sw timer ext
  refine ⟨hbit 3, hbit 7, hbit 11, fun k h3 h7 h11 => ?_, rfl⟩
  rw [hbit, if_neg h11, if_neg h7, if_neg h3]

/-! ### Trap entry -/

section
variable {isInt : Bool} {cause : Nat} {s : State}

/-- The destination is S exactly for a delegated cause below M (60_exceptions.md R502). -/
theorem destPriv_eq_S_iff : destPriv isInt cause s = .S ↔
    s.priv ≠ .M ∧ (if isInt then s.csr.mideleg else s.csr.medeleg).getLsbD cause = true := by
  have hU : Priv.U.below .M = true := rfl
  have hS : Priv.S.below .M = true := rfl
  have hM : Priv.M.below .M = false := rfl
  cases hp : s.priv <;> simp [destPriv, hp, hU, hS, hM]

/-- The destination is S or M (60_exceptions.md R502). -/
theorem destPriv_eq_M_of_ne (h : destPriv isInt cause s ≠ .S) : destPriv isInt cause s = .M :=
  if_neg fun hd => h (if_pos hd)

theorem trapEntry_toS (h : destPriv isInt cause s = .S) (tval epc : Word) :
    trapEntry isInt cause tval epc s = { s with
        csr := { s.csr with
          mstatus := putSIE (putSPP (putSPIE s.csr.mstatus (statusSIE s.csr.mstatus)) (s.priv == .S)) false
          sepc := epc, scause := causeWord isInt cause, stval := tval }
        priv := .S, pc := trapVector s.csr.stvec isInt cause, result := .trap (causeWord isInt cause) } := by
  rw [trapEntry, h]

theorem trapEntry_toM (h : destPriv isInt cause s = .M) (tval epc : Word) :
    trapEntry isInt cause tval epc s = { s with
        csr := { s.csr with
          mstatus := putMIE (putMPP (putMPIE s.csr.mstatus (statusMIE s.csr.mstatus)) s.priv.bits) false
          mepc := epc, mcause := causeWord isInt cause, mtval := tval }
        priv := .M, pc := trapVector s.csr.mtvec isInt cause, result := .trap (causeWord isInt cause) } := by
  rw [trapEntry, h]

end

/-- Every bit of `mstatus` after trap entry to S (60_exceptions.md R503). -/
theorem entryToS_getLsbD (w : Word) (spie spp : Bool) (k : Nat) :
    (putSIE (putSPP (putSPIE w spie) spp) false).getLsbD k =
      if k = 1 then false else if k = 8 then spp else if k = 5 then spie else w.getLsbD k := by
  rw [putSIE_getLsbD, putSPP_getLsbD, putSPIE_getLsbD]

theorem entryToS_other (w : Word) (spie spp : Bool) (k : Nat) (h1 : k ≠ 1) (h5 : k ≠ 5) (h8 : k ≠ 8) :
    (putSIE (putSPP (putSPIE w spie) spp) false).getLsbD k = w.getLsbD k := by
  rw [entryToS_getLsbD, if_neg h1, if_neg h8, if_neg h5]

/-- Every bit of `mstatus` after trap entry to M (60_exceptions.md R503). -/
theorem entryToM_getLsbD (w : Word) (mpie : Bool) (p : BitVec 2) (k : Nat) :
    (putMIE (putMPP (putMPIE w mpie) p) false).getLsbD k = if k = 3 then false else if k = 12 then p.getLsbD 1
      else if k = 11 then p.getLsbD 0 else if k = 7 then mpie else w.getLsbD k := by
  rw [putMIE_getLsbD, putMPP_getLsbD, putMPIE_getLsbD]

theorem entryToM_other (w : Word) (mpie : Bool) (p : BitVec 2) (k : Nat) (h3 : k ≠ 3) (h7 : k ≠ 7) (h11 : k ≠ 11)
    (h12 : k ≠ 12) : (putMIE (putMPP (putMPIE w mpie) p) false).getLsbD k = w.getLsbD k := by
  rw [entryToM_getLsbD, if_neg h3, if_neg h12, if_neg h11, if_neg h7]

/-- The cause value as a number (60_exceptions.md R503). -/
theorem causeWord_eq_ofNat (isInt : Bool) {cause : Nat} (h : cause < 16) :
    causeWord isInt cause = BitVec.ofNat 32 (if isInt then 2 ^ 31 + cause else cause) := by
  revert cause isInt; decide

/-- Clearing the two low bits rounds down to a multiple of 4. -/
theorem and_not_three (w : Word) : w &&& 0xFFFFFFFC#32 = BitVec.ofNat 32 (w.toNat / 4 * 4) := by
  have hmask : ∀ k < 32, (0xFFFFFFFC#32).getLsbD k = decide (2 ≤ k) := by decide
  have hshift : w.toNat / 4 * 4 = w.toNat >>> 2 <<< 2 := by
    rw [Nat.shiftRight_eq_div_pow, Nat.shiftLeft_eq]
  refine BitVec.eq_of_getLsbD_eq fun k hk => ?_
  rw [BitVec.getLsbD_and, hmask k hk, hshift, BitVec.getLsbD_ofNat, Nat.testBit_shiftLeft, Nat.testBit_shiftRight]
  by_cases h2 : 2 ≤ k
  · simp [h2, hk, BitVec.getLsbD, Nat.add_sub_cancel' h2]
  · simp [h2]

/-- The handler address as a number (60_exceptions.md R504). -/
theorem trapVector_eq_ofNat (tvec : Word) (isInt : Bool) (cause : Nat) : trapVector tvec isInt cause =
    BitVec.ofNat 32 (tvec.toNat / 4 * 4 + if tvec.getLsbD 0 ∧ isInt then 4 * cause else 0) := by
  rw [trapVector, and_not_three, BitVec.ofNat_add]
  by_cases h : tvec.getLsbD 0 = true ∧ isInt = true
  · rw [if_pos h]; exact if_pos (Bool.and_eq_true_iff.2 h)
  · rw [if_neg h]; exact (if_neg (mt Bool.and_eq_true_iff.1 h)).trans (BitVec.add_zero _).symm

/-- Settles O22: each claim about `mstatus` is about one of its bits after trap entry to the cause's destination. -/
theorem trapEntryWrites : Obligations.TrapEntryWrites := by
  intro isInt cause tval epc s hcause
  dsimp only
  rw [← causeWord_eq_ofNat isInt hcause, ← trapVector_eq_ofNat, ← trapVector_eq_ofNat]
  refine ⟨trapEntry_result _ _ _ _ _, fun hdeleg => ?toS, fun hdeleg => ?toM⟩
  case toS =>
    rw [trapEntry_toS (destPriv_eq_S_iff.2 hdeleg)]
    have hbit := entryToS_getLsbD s.csr.mstatus (statusSIE s.csr.mstatus) (s.priv == .S)
    refine ⟨rfl, hbit 5, ?spp, hbit 1, entryToS_other _ _ _, rfl, rfl, rfl, rfl⟩
    case spp => rw [statusSPP, hbit 8]; exact beq_iff_eq
  case toM =>
    have hdest : destPriv isInt cause s = .M := destPriv_eq_M_of_ne fun h => by
      obtain ⟨hp, hd⟩ := destPriv_eq_S_iff.1 h
      rcases hdeleg with hM | hnone
      · exact hp hM
      · exact Bool.false_ne_true (hnone.symm.trans hd)
    rw [trapEntry_toM hdest]
    have hbit := entryToM_getLsbD s.csr.mstatus (statusMIE s.csr.mstatus) s.priv.bits
    have hmpp := (statusMPP_eq_iff _ _).2 ⟨hbit 11, hbit 12⟩
    exact ⟨rfl, hbit 7, hmpp, hbit 3, entryToM_other _ _ _, rfl, rfl, rfl, rfl⟩

/-- Settles O23: what is not written at either destination, `mstatus` bit by bit. -/
theorem trapEntryLeavesAlone : Obligations.TrapEntryLeavesAlone := by
  intro isInt cause tval epc s
  dsimp only
  rcases trapEntry_cases isInt cause tval epc s with h | h <;> rw [h]
  · have hother := entryToS_other s.csr.mstatus (statusSIE s.csr.mstatus) (s.priv == .S)
    refine ⟨fun _ => rfl, rfl, rfl, fun _ => ⟨rfl, rfl, rfl⟩, nofun, fun k h1 _ h5 _ h8 _ _ => hother k h1 h5 h8,
      fun _ k hk => hother k ?_ ?_ ?_, nofun, rfl, rfl, rfl, rfl, rfl, rfl, rfl, rfl, rfl, rfl,
      ⟨⟨rfl, rfl, rfl⟩, rfl, rfl⟩, rfl, rfl, rfl, fun _ => rfl⟩ <;> omega
  · have hother := entryToM_other s.csr.mstatus (statusMIE s.csr.mstatus) s.priv.bits
    refine ⟨fun _ => rfl, rfl, rfl, nofun, fun _ => ⟨rfl, rfl, rfl⟩,
      fun k _ h3 _ h7 _ h11 h12 => hother k h3 h7 h11 h12, nofun, fun _ k hk => hother k ?_ ?_ ?_ ?_, rfl, rfl, rfl,
      rfl, rfl, rfl, rfl, rfl, rfl, rfl, ⟨⟨rfl, rfl, rfl⟩, rfl, rfl⟩, rfl, rfl, rfl, fun _ => rfl⟩ <;> omega

/-! ### Privilege rises only into a handler -/

/-- The step's result names a trap, and control is at the handler of the level for its cause (60_exceptions.md R504). -/
abbrev InHandler (t : State) : Prop :=
  ∃ isInt cause, cause < 16 ∧ t.result = .trap (causeWord isInt cause)
    ∧ t.pc = trapVector (if t.priv = .M then t.csr.mtvec else t.csr.stvec) isInt cause

theorem trapEntry_inHandler (isInt : Bool) {cause : Nat} (hc : cause < 16) (tval epc : Word) (s : State) :
    InHandler (trapEntry isInt cause tval epc s) := by
  refine ⟨isInt, cause, hc, trapEntry_result _ _ _ _ _, ?_⟩
  rcases trapEntry_cases isInt cause tval epc s with h | h <;> rw [h] <;> rfl

/-- Every exception has a cause below 16 (60_exceptions.md R480). -/
theorem Exc.code_lt (e : Exc) : e.code < 16 := by
  cases e <;> decide

theorem takeException_inHandler (e : Exc) (v : Word) (s : State) : InHandler (takeException e v s) :=
  trapEntry_inHandler false e.code_lt v _ s

/-- Every interrupt that the scan looks at has a cause below 16 (60_exceptions.md R481, R515). -/
theorem interrupt_inHandler {i : Nat} (hi : i ∈ causeOrder) (tval epc : Word) (s : State) :
    InHandler (trapEntry true i tval epc s) :=
  trapEntry_inHandler true (Nat.lt_trans ((mem_causeOrder i).1 hi) (by decide)) tval epc s

/-- The check takes an interrupt, or leaves the state. -/
theorem checkInterrupts_inHandler (s : State) : InHandler (checkInterrupts s) ∨ checkInterrupts s = s := by
  rcases checkInterrupts_cases s with ⟨h, -⟩ | ⟨i, hi, -, h⟩
  · exact .inr h
  · exact .inl (h ▸ interrupt_inHandler hi _ _ s)

theorem Priv.not_below_self (p : Priv) : p.below p = false := by
  cases p <;> rfl

theorem Priv.machine_not_below (p : Priv) : Priv.M.below p = false := by
  cases p <;> rfl

/-- SRET goes to S at most, so it does not raise the privilege (46_system_csr.md R389, 60_exceptions.md R520). -/
theorem returnFromS_not_below {s : State} (h : s.priv ≠ .U) : s.priv.below (returnFromS s).priv = false := by
  change s.priv.below (if statusSPP s.csr.mstatus then .S else .U) = false
  cases hp : s.priv with
  | U => exact absurd hp h
  | S => cases statusSPP s.csr.mstatus <;> rfl
  | M => exact Priv.machine_not_below _

/-- An instruction enters a handler or leaves the privilege no higher. -/
theorem Effect.inHandler_or_not_below {i : Instr} {s t : State} (h : Effect i s t) :
    InHandler t ∨ s.priv.below t.priv = false := by
  cases h with
  | raises r e v hu => exact .inl (takeException_inHandler e v _)
  | completes r r' v hu hn =>
    obtain ⟨-, -, -, hp, -⟩ := AccessOnly.fields hu.accessOnly
    refine .inr ?_
    rw [State.setReg_priv]
    exact hp ▸ Priv.not_below_self _
  | csrWrites num v old => rw [State.setReg_priv, csrWrite_priv]; exact .inr (Priv.not_below_self _)
  | flushes => exact .inr (Priv.not_below_self _)
  | returnsFromM _ hp => exact .inr (hp ▸ Priv.machine_not_below _)
  | returnsFromS _ hp => exact .inr (returnFromS_not_below hp)
  | waits =>
    rcases wfiTail_cases s with ⟨r, -, h⟩ | ⟨j, hj, -, h⟩ <;> rw [h]
    · exact .inr (Priv.not_below_self _)
    · exact .inl (interrupt_inHandler hj _ _ _)

/-- The end of a step enters a handler, or keeps the privilege that the instruction left. -/
theorem retire_inHandler {i : Instr} {p : Priv} {w : State} (h : InHandler w ∨ p.below w.priv = false) :
    InHandler (retire i w) ∨ p.below (retire i w).priv = false := by
  rcases retire_cases i w with ⟨-, hr⟩ | ⟨ht, -, hr⟩ <;> rw [hr]
  · exact h
  · rcases checkInterrupts_inHandler (commitPc w) with hin | hsame
    · exact .inl hin
    · rw [hsame]
      refine .inr (h.resolve_left fun ⟨isInt, cause, _, hres, _⟩ => ?_)
      rw [hres] at ht
      cases ht

/-- Settles O21: a step that takes no trap leaves the privilege no higher. -/
theorem privilegeRisesOnlyIntoHandler : Obligations.PrivilegeRisesOnlyIntoHandler := by
  intro s t h hbelow
  rcases step_next h with ⟨e, v, u, -, -, rfl⟩ | ⟨f, u, x, -, -, -, rfl⟩ | ⟨f, u, i, w, -, hu, -, hx, rfl⟩
  · exact takeException_inHandler e v u
  · exact takeException_inHandler _ _ u
  · obtain ⟨-, -, -, hp, -⟩ := TranslationOnly.fields hu
    have hp : (arm f u).priv = s.priv := hp
    have hend := retire_inHandler (i := i) (exec_effect hx).inHandler_or_not_below
    rw [hp] at hend
    exact hend.resolve_right (by rw [hbelow]; nofun)

end Sys2Proof.Machine
end

section
/-! Upper immediates, immediate ALU instructions and the compressed ones (43_integer_alu.md R301 to R309,
47_upper_immediate.md R420, R421, 48_compressed.md R430 to R459): one register write each, and the expansion. -/

namespace Sys2Proof.Machine

/-- Settles O52: each of the eleven is one register write, of a function whose value as integer arithmetic is the one
stated. -/
theorem immediateResults : Obligations.ImmediateResults := by
  intro rd rs1 imm imm20 shamt s
  refine ⟨?lui, ?auipc, ?addi, ?slti, ?sltiu, ?xori, ?ori, ?andi, ?slli, ?srli, ?srai⟩
  case lui | auipc => exact next_setReg_onlyReg rfl rd s
  case addi | xori | ori | andi => exact next_setReg_onlyReg rfl rd s
  case slti => exact next_setReg_onlyReg (boolWord_lessSigned _ _) rd s
  case sltiu => exact next_setReg_onlyReg (boolWord_lessUnsigned _ _) rd s
  case slli => exact next_setReg_onlyReg (shiftLeft_eq_ofNat _ _) rd s
  case srli => exact next_setReg_onlyReg (shiftRight_eq_ofNat _ _) rd s
  case srai => exact next_setReg_onlyReg (shiftRightArith_eq_ofInt _ _) rd s

/-! ### Immediates in two steps -/

/-- An immediate sign-extended to the width of the 32-bit format first has the same value as a word. -/
theorem sext_signExtend {n m : Nat} (hnm : n ≤ m) (hm : m ≤ 32) (imm : BitVec n) :
    sext (imm.signExtend m) = imm.signExtend 32 := by
  apply BitVec.eq_of_toInt_eq
  rw [sext, BitVec.toInt_signExtend_of_le hm, BitVec.toInt_signExtend_of_le hnm,
    BitVec.toInt_signExtend_of_le (hnm.trans hm)]

/-- An unsigned immediate has a 0 as the top bit of the wider format, so the sign extension adds zeros. -/
theorem sext_setWidth {n m : Nat} (hnm : n < m) (imm : BitVec n) : sext (imm.setWidth m) = imm.setWidth 32 := by
  have hmsb : (imm.setWidth m).msb = false := by
    rw [BitVec.msb_setWidth, BitVec.getLsbD_of_ge _ _ (Nat.le_sub_one_of_lt hnm), Bool.and_false]
  have hlt : imm.toNat < 2 ^ m := imm.isLt.trans_le (Nat.pow_le_pow_right (by decide) hnm.le)
  apply BitVec.eq_of_toNat_eq
  rw [sext, BitVec.signExtend_eq_setWidth_of_msb_false hmsb, BitVec.toNat_setWidth, BitVec.toNat_setWidth,
    BitVec.toNat_setWidth, Nat.mod_eq_of_lt hlt]

/-- The immediate of C.LUI stands above twelve zeros (R441). -/
theorem upper_signExtend (imm : BitVec 6) : upper (imm.signExtend 20) = (imm ++ 0#12).signExtend 32 := by
  revert imm; decide

theorem isEven_signExtend {n m : Nat} (hn : 0 < n) (hm : 0 < m) (off : BitVec n) :
    isEven (off.signExtend m) = isEven off := by
  rw [isEven, isEven, BitVec.getLsbD_signExtend, if_pos hn, decide_eq_true hm, Bool.true_and]

/-! ### The compressed instructions -/

section
variable {s : State} {rd : Reg}

/-- A register and a sign-extended immediate, extended in two steps. -/
theorem aluImm_signExtend_onlyReg {n : Nat} (hn : n ≤ 12) (f : Word → Word → Word) (rs1 : Reg) (imm : BitVec n) :
    ∃ t, aluImm f rd rs1 (imm.signExtend 12) s = .next t ∧ OnlyReg rd (f (s.reg rs1) (imm.signExtend 32)) s t := by
  rw [aluImm, sext_signExtend hn (by decide)]
  exact next_setReg_onlyReg rfl rd s

/-- A register and an unsigned immediate, extended in two steps. -/
theorem aluImm_setWidth_onlyReg {n : Nat} (hn : n < 12) (f : Word → Word → Word) (rs1 : Reg) (imm : BitVec n) :
    ∃ t, aluImm f rd rs1 (imm.setWidth 12) s = .next t ∧ OnlyReg rd (f (s.reg rs1) (imm.setWidth 32)) s t := by
  rw [aluImm, sext_setWidth hn]
  exact next_setReg_onlyReg rfl rd s

end

/-- Settles O59: each but C.NOP is one register write, an immediate being extended to the 32-bit format's first. -/
theorem compressedAluResults : Obligations.CompressedAluResults := by
  intro rd rs2 rdp rs2p imm wide shamt s
  dsimp only
  rw [show 1#2 ++ rdp = cReg rdp from (cReg_eq_wideReg rdp).symm,
    show 1#2 ++ rs2p = cReg rs2p from (cReg_eq_wideReg rs2p).symm]
  refine ⟨rfl, ?addi4spn, ?addi, ?li, ?addi16sp, ?lui, ?srli, ?srai, ?andi, ?sub, ?xor, ?or, ?and, ?slli, ?mv, ?add⟩
  case addi4spn => exact aluImm_setWidth_onlyReg (by decide) (fun a b => a + b) 2#5 wide
  case addi => exact aluImm_signExtend_onlyReg (by decide) (fun a b => a + b) rd imm
  case addi16sp => exact aluImm_signExtend_onlyReg (by decide) (fun a b => a + b) 2#5 wide
  case andi => exact aluImm_signExtend_onlyReg (by decide) (fun a b => a &&& b) (cReg rdp) imm
  case lui => exact next_setReg_onlyReg (upper_signExtend imm) rd s
  case srli => exact next_setReg_onlyReg (shiftRight_eq_ofNat _ _) (cReg rdp) s
  case srai => exact next_setReg_onlyReg (shiftRightArith_eq_ofInt _ _) (cReg rdp) s
  case slli => exact next_setReg_onlyReg (shiftLeft_eq_ofNat _ _) rd s
  case li | mv | add => exact next_setReg_onlyReg rfl rd s
  case sub | xor | or | and => exact next_setReg_onlyReg rfl (cReg rdp) s

/-! ### The expansion -/

/-- A 32-bit instruction is its own expansion (R430). -/
theorem expand_long {i : Instr} (hc : i.compressed = false) : expand i = i := by
  cases i with
  | cAddi4spn | cLw | cSw | cNop | cAddi | cJal | cLi | cAddi16sp | cLui | cSrli | cSrai | cAndi | cSub | cXor | cOr
  | cAnd | cJ | cBeqz | cBnez | cSlli | cLwsp | cJr | cMv | cEbreak | cJalr | cAdd | cSwsp => cases hc
  | _ => rfl

theorem expand_compressed (i : Instr) : (expand i).compressed = false := by
  cases hc : i.compressed
  · rw [expand_long hc, hc]
  · cases i <;> rfl

/-- The expansion of a well-formed instruction is well-formed: an even offset stays even. -/
theorem expand_wf {i : Instr} (hi : i.wf = true) : (expand i).wf = true := by
  cases hc : i.compressed
  · rwa [expand_long hc]
  cases i with
  | cJal | cJ | cBeqz | cBnez => exact (isEven_signExtend (by decide) (by decide) _).trans hi
  | jal | beq | bne | blt | bge | bltu | bgeu => cases hc
  | _ => rfl

/-- Each compressed instruction executes as its expansion (R430): the registers that 3-bit fields name, immediates that
are extended in two steps, and x0 in place of an operand that is not there. -/
theorem exec_expand (i : Instr) (s : State) : exec i s = exec (expand i) s := by
  cases hc : i.compressed
  · rw [expand_long hc]
  cases i with
  | cAddi4spn | cAndi =>
    change aluImm _ (cReg _) _ _ s = _
    simp only [cReg_eq_wideReg]
    rfl
  | cSrli | cSrai =>
    change aluShift _ (cReg _) (cReg _) _ s = _
    simp only [cReg_eq_wideReg]
    rfl
  | cSub | cXor | cOr | cAnd =>
    change aluReg _ (cReg _) (cReg _) (cReg _) s = _
    simp only [cReg_eq_wideReg]
    rfl
  | cLw | cLwsp =>
    change load _ _ _ (s.ea _ (zext _)) s = _
    simp (disch := decide) only [cReg_eq_wideReg, zext, ← sext_setWidth (m := 12)]
    rfl
  | cSw | cSwsp =>
    change store _ _ (s.ea _ (zext _)) s = _
    simp (disch := decide) only [cReg_eq_wideReg, zext, ← sext_setWidth (m := 12)]
    rfl
  | cAddi | cAddi16sp | cLui | cSlli | cAdd | cEbreak | cJr | cJalr => rfl
  | cNop => exact congrArg Host.Outcome.next (State.setReg_zero s _).symm
  | cLi rd imm =>
    change _ = Host.Outcome.next (s.setReg rd (s.reg 0#5 + sext (imm.signExtend 12)))
    rw [State.reg_zero, BitVec.zero_add, sext_signExtend (by decide) (by decide)]
    rfl
  | cMv rd rs2 =>
    change _ = Host.Outcome.next (s.setReg rd (s.reg 0#5 + s.reg rs2))
    rw [State.reg_zero, BitVec.zero_add]
    rfl
  | cJal off | cJ off =>
    change _ = jump _ (s.pc + sext (off.signExtend 21)) s
    rw [sext_signExtend (by decide) (by decide)]
    rfl
  | cBeqz rs1 off =>
    change branchIf (s.reg (cReg rs1) == 0#32) (sext off) s = _
    rw [cReg_eq_wideReg, ← State.reg_zero s, sext, ← sext_signExtend (m := 13) (by decide) (by decide)]
    rfl
  | cBnez rs1 off =>
    change branchIf (s.reg (cReg rs1) != 0#32) (sext off) s = _
    rw [cReg_eq_wideReg, ← State.reg_zero s, sext, ← sext_signExtend (m := 13) (by decide) (by decide)]
    rfl
  | _ => cases hc

/-- Settles O60: the expansion has the same meaning, is a well-formed 32-bit instruction and expands no further. -/
theorem compressedRunsAsExpansion : Obligations.CompressedRunsAsExpansion := fun i s hi =>
  ⟨exec_expand i s, expand_wf hi, expand_compressed i, expand_long⟩

end Sys2Proof.Machine
end
